-- ==== Sys2Proof/Word.lean ====
section
/-! DEFINITION. The words of the NU-4408: bytes of a line or of a frame, and the 32-bit values (names, CRCs). -/

namespace Sys2Proof

/-- One byte of a line, of the settings store or of a frame. -/
abbrev Byte := BitVec 8

/-- A 32-bit value: an image name or a CRC-32. -/
abbrev Word32 := BitVec 32

end Sys2Proof
end

