-- ==== Sys2Proof/Syntax.lean ====
section
/-! DEFINITION. The commands of the NU-4408: one constructor of `Instr` per row of spec/opcode_table.json, with the
operands the row's rule names. A request's parameters are numbers as the frame carries them (R178): a value out of its
range is a legal operand, judged when the request is taken. -/

namespace Sys2Proof

/-- One of four like things: the banks 0 to 3, or the client ports 1 to 4 (00 section 2). -/
inductive Four where
  | zero | one | two | three
deriving DecidableEq, Repr

/-- A flash bank, 0 to 3. -/
abbrev BankId := Four

/-- A client port: `zero` is port 1, `three` is port 4. -/
abbrev ClientId := Four

/-- A port: port 0 (management) or a client port 1 to 4. -/
inductive Port where
  | mgmt
  | client (c : ClientId)
deriving DecidableEq, Repr

/-- A request as the port queues it: its kind and its parameters (R178, R179). -/
inductive Request where
  | identify
  | poll
  | entry (index : Nat)
  | find (name : Word32)
  | sector (sector : Nat)
  | jobs
  | openImage (name : Word32) (first count kind level : Nat)
  | write (index offset : Nat) (data : List Byte)
  | publish (index length : Nat) (crc : Word32)
  | abandon (job : Nat)
  | retire (index : Nat)
  | revoke (index : Nat)
  | discard (index : Nat)
  | erase (sector : Nat)
  | clearAccessed (index : Nat)
  | read (index offset length : Nat)
  | readRaw (sector line first length : Nat)
  | setLevel (port level : Nat)
  | protect (group : Nat)
  | unprotectAll
  | bootSet (port : Nat) (primary fallback : Word32) (level : Nat)
  | bootClear
  | bootLock
  | bind (aperture : Nat) (name : Word32) (generation : Nat)
  | unbind (aperture : Nat)
  | describe (aperture : Nat)
  | fetch (aperture offset length access : Nat)
deriving DecidableEq, Repr

/-- A command: one event at the part. The request constructors stand for the arrival of that request, in a correct
frame with the given tag, and for its take when the port can take it at once (log 1). -/
inductive Instr where
  /-- POWER_ON (R151). -/
  | powerOn
  /-- RESET_ASSERTED (R151). -/
  | resetAsserted
  /-- RESET_RELEASED (R152). -/
  | resetReleased
  /-- PORT_RESET_ASSERTED of a client port (R158, R159). -/
  | portResetAsserted (c : ClientId)
  /-- PORT_RESET_RELEASED of a client port (R159, R160). -/
  | portResetReleased (c : ClientId)
  /-- WP_CHANGE: the WP input goes high or low (R139). -/
  | wpChange (high : Bool)
  /-- REQUEST_FRAME_ARRIVAL: the last byte of a frame has been received (R164). -/
  | requestFrameArrival (p : Port) (bytes : List Byte)
  /-- RESPONSE_FRAME_SENT: the link has sent the frame it was sending (R168). -/
  | responseFrameSent (p : Port)
  /-- IDENTIFY (R169). -/
  | identify (p : Port) (tag : Byte)
  /-- POLL (R171). -/
  | poll (p : Port) (tag : Byte)
  /-- ENTRY (R26). -/
  | entry (tag : Byte) (index : Nat)
  /-- FIND (R27). -/
  | find (tag : Byte) (name : Word32)
  /-- SECTOR (R140). -/
  | sector (tag : Byte) (sector : Nat)
  /-- JOBS (R101). -/
  | jobs (tag : Byte)
  /-- OPEN (R106). -/
  | openImage (tag : Byte) (name : Word32) (first count kind level : Nat)
  /-- WRITE (R110). -/
  | write (tag : Byte) (index offset : Nat) (data : List Byte)
  /-- PUBLISH (R113). -/
  | publish (tag : Byte) (index length : Nat) (crc : Word32)
  /-- ABANDON (R102). -/
  | abandon (tag : Byte) (job : Nat)
  /-- RETIRE (R122). -/
  | retire (tag : Byte) (index : Nat)
  /-- REVOKE (R126). -/
  | revoke (tag : Byte) (index : Nat)
  /-- DISCARD (R128). -/
  | discard (tag : Byte) (index : Nat)
  /-- ERASE (R134). -/
  | erase (tag : Byte) (sector : Nat)
  /-- CLEAR_ACCESSED (R25). -/
  | clearAccessed (tag : Byte) (index : Nat)
  /-- READ (R56). -/
  | read (tag : Byte) (index offset length : Nat)
  /-- READ_RAW (R58). -/
  | readRaw (tag : Byte) (sector line first length : Nat)
  /-- SET_LEVEL (R32). -/
  | setLevel (tag : Byte) (port level : Nat)
  /-- PROTECT (R142). -/
  | protect (tag : Byte) (group : Nat)
  /-- UNPROTECT_ALL (R143). -/
  | unprotectAll (tag : Byte)
  /-- BOOT_SET (R146). -/
  | bootSet (tag : Byte) (port : Nat) (primary fallback : Word32) (level : Nat)
  /-- BOOT_CLEAR (R147). -/
  | bootClear (tag : Byte)
  /-- BOOT_LOCK (R148). -/
  | bootLock (tag : Byte)
  /-- BIND at a client port (R33). -/
  | bind (c : ClientId) (tag : Byte) (aperture : Nat) (name : Word32) (generation : Nat)
  /-- UNBIND at a client port (R37). -/
  | unbind (c : ClientId) (tag : Byte) (aperture : Nat)
  /-- DESCRIBE at a client port (R39). -/
  | describe (c : ClientId) (tag : Byte) (aperture : Nat)
  /-- FETCH at a client port (R48). -/
  | fetch (c : ClientId) (tag : Byte) (aperture offset length access : Nat)
  /-- SENSE_COMPLETION of a read access or verify read in a bank (R74). -/
  | senseCompletion (b : BankId)
  /-- BLANK_CHECK_COMPLETION in a bank (R77). -/
  | blankCheckCompletion (b : BankId)
  /-- PROGRAM_COMPLETION in a bank (R78). -/
  | programCompletion (b : BankId)
  /-- PROGRAM_TIMEOUT in a bank (R78). -/
  | programTimeout (b : BankId)
  /-- READ_BACK_COMPLETION in a bank; `equal` says whether the read-back sense found every target byte equal to its
  intended value (R78, log 8). -/
  | readBackCompletion (b : BankId) (equal : Bool)
  /-- ERASE_COMPLETION in a bank (R81). -/
  | eraseCompletion (b : BankId)
  /-- ERASE_TIMEOUT in a bank (R82). -/
  | eraseTimeout (b : BankId)
  /-- SUSPEND_COMPLETION in a bank (R84). -/
  | suspendCompletion (b : BankId)
  /-- LOCKOUT_EXPIRY in a bank (R83). -/
  | lockoutExpiry (b : BankId)
  /-- SETTINGS_READ_COMPLETION of the start-up scanner (R153). -/
  | settingsReadCompletion
  /-- SCAN_SENSE_COMPLETION of the start-up scanner (R153). -/
  | scanSenseCompletion
  /-- SETTINGS_PROGRAM_COMPLETION; `equal` says whether the read-back found every target byte or bit equal (R141, log 8). -/
  | settingsProgramCompletion (equal : Bool)
  /-- SETTINGS_PROGRAM_TIMEOUT (R141). -/
  | settingsProgramTimeout
  /-- SETTINGS_ERASE_COMPLETION (R141). -/
  | settingsEraseCompletion
  /-- SETTINGS_ERASE_TIMEOUT (R141). -/
  | settingsEraseTimeout
deriving DecidableEq, Repr

end Sys2Proof
end

