-- ==== Sys2Proof/Config.lean ====
section
/-! DEFINITION. What is fixed for the part: geometry (00 section 2), time limits in microseconds, identity constants,
and the free values, which have no body. -/

namespace Sys2Proof.Config

/-- Bytes of a line (00 section 2). -/
abbrev lineBytes : Nat := 256

/-- Bytes of a sector: 256 lines of 256 bytes (00 section 2). -/
abbrev sectorBytes : Nat := 65536

/-- Sectors of the array (00 section 2). -/
abbrev sectors : Nat := 256

/-- Directory entries, indices 1 to 256 (R1). -/
abbrev entries : Nat := 256

/-- Job slots, numbers 1 to 8 (R92). -/
abbrev jobSlots : Nat := 8

/-- Depth of a port's request queue (R162). -/
abbrev queueDepth : Nat := 4

/-- Response frames placed and not yet begun that a link output holds (R168). -/
abbrev linkDepth : Nat := 8

/-- Room an answer at once needs: fewer than this many frames not yet begun (R168). -/
abbrev answerRoom : Nat := 4

/-- The greatest credit of a media access (R73). -/
abbrev creditLimit : Nat := 8

/-- Resume lockout: 100 microseconds of running time (R86). -/
abbrev lockoutTime : Nat := 100

/-- An erase times out at 2 s of running time (R82). -/
abbrev eraseLimit : Nat := 2000000

/-- The suspend completion comes at most 20 microseconds after the suspend began (R84). -/
abbrev suspendLimit : Nat := 20

/-- A program phase fails at 2 ms of programming activity (R78, R141). -/
abbrev programLimit : Nat := 2000

/-- A settings-store erase fails at 400 ms (R141). -/
abbrev settingsEraseLimit : Nat := 400000

/-- Vendor code (R175). -/
abbrev vendorCode : Nat := 0x5D17

/-- Part code (R175). -/
abbrev partCode : Nat := 0x4408

/-- The revision byte of the identity constants: R175 gives it a byte and no value. Free (log 9). -/
opaque revision : BitVec 8

/-- Free bytes: the n-th is the value the part draws when a byte is left indeterminate (R78, R82, R91, R141), or echoed
from a frame too short to hold it (R165). Free (log 7). -/
opaque freeByte : Nat → BitVec 8

end Sys2Proof.Config
end

