-- ==== Sys2Proof/Machine/State.lean ====
section
/-! DEFINITION. The state of the NU-4408 as plain data: the flash, the directory, the sector map, the port units, the
banks, the supply arbiter, the job unit, the settings store, the scanner and the pins. Every field's default is its
value right after reset. A table (directory, sector map, binding table, last outcomes, memory) is a list of
(key, value) pairs with strictly rising keys that leaves out every key whose value is the table's default. -/

namespace Sys2Proof.Machine

open Host (Cell)

/-- Four like things, one per bank or one per client port. -/
structure Quad (α : Type) where
  v0 : α
  v1 : α
  v2 : α
  v3 : α
deriving DecidableEq, Repr

/-! ## The directory (chapter 1) -/

/-- The kind of an image (R1, R50). -/
inductive Kind where
  | exec | code | data
deriving DecidableEq, Repr

/-- Why an entry is BAD (R1, R4). -/
inductive BadReason where
  | crcMismatch | markFailed | eraseFailed | protection | duplicate | tornMark | discardInterrupted
deriving DecidableEq, Repr

/-- The state of a non-FREE entry (R1). The job is present exactly in VERIFYING and DISCARDING, the bad reason exactly
in BAD (R4). -/
inductive ImageState where
  | opened
  | verifying (job : Nat)
  | ready
  | retiring
  | retired
  | discarding (job : Nat)
  | bad (reason : BadReason)
deriving DecidableEq, Repr

/-- A non-FREE directory entry (R1, R2). `name` is absent in a nameless entry; `published` is payload length and expected
CRC, present or absent together (R3). -/
structure Image where
  state : ImageState
  name : Option Word32
  generation : Nat
  first : Nat
  count : Nat
  kind : Kind
  level : Nat
  published : Option (Nat × Word32) := none
  bindings : Nat := 0
  reads : Nat := 0
  accessed : Bool := false
deriving DecidableEq, Repr

/-! ## The sector map (chapter 8) -/

/-- One sector record (R138). -/
structure SectorRecord where
  owner : Option Nat := none
  failed : Bool := false
  target : Option Nat := none
deriving DecidableEq, Repr

/-! ## Ports (chapters 2 and 10) -/

/-- The state of a port (R162). -/
inductive PortState where
  | starting | ready | resetting
deriving DecidableEq, Repr

/-- The attention causes (R170). -/
inductive Cause where
  | jobFailed | jobDone | clientReset | restarted | revoked | bootMissing | newer
deriving DecidableEq, Repr

/-- A port's cause set: each cause present or absent (R170). -/
structure CauseSet where
  jobFailed : Bool := false
  jobDone : Bool := false
  clientReset : Bool := false
  restarted : Bool := false
  revoked : Bool := false
  bootMissing : Bool := false
  newer : Bool := false
deriving DecidableEq, Repr

/-- The status of a response (R179). -/
inductive Status where
  | ok | accepted | range | align | limit | wrongState | unbound | revoked | accessType | apertureBusy | noEntry
  | privilege | directoryFull | generationExhausted | extentOwned | busy | sectorFailed | protection | jobsFull | noJob
  | notAbandonable | busySector | bootLocked | notBlank | programFailed | markFailed | eraseFailed | starting | frameError
  | unknownRequest | full
deriving DecidableEq, Repr

/-- A response frame, without its length and CRC-8, which follow from it (R165, R177). -/
structure Response where
  kind : Byte
  tag : Byte
  status : Status
  results : List Byte
deriving DecidableEq, Repr

/-- The record of a port unit (R162, R168). `queue` holds tag and request, the head first; `sending` is the frame the link
is sending, `notBegun` the frames placed behind it. -/
structure PortUnit where
  state : PortState := .starting
  queue : List (Byte × Request) := []
  inService : Bool := false
  causes : CauseSet := {}
  readMark : Bool := false
  sending : Option Response := none
  notBegun : List Response := []
deriving DecidableEq, Repr

/-- A BOUND or REVOKED aperture record (R28). -/
structure Aperture where
  revoked : Bool
  entry : Nat
  name : Word32
  generation : Nat
  kind : Kind
  payloadLength : Nat
  first : Nat
  count : Nat
  boot : Bool
deriving DecidableEq, Repr

/-- A client port's working copy of its boot entry (R144, R145). -/
inductive BootCopy where
  | blank
  | valid (primary fallback : Word32) (level : Nat)
  | invalid
deriving DecidableEq, Repr

/-- A client port unit (R28, R31, R144): its port record, its PORT_RESET line (true while asserted), its level, its
binding table (an unlisted aperture is EMPTY) and its boot-entry copy. -/
structure ClientUnit where
  port : PortUnit := {}
  line : Bool := false
  level : Nat := 3
  apertures : List (Nat × Option Aperture) := []
  bootCopy : BootCopy := .blank
deriving DecidableEq, Repr

/-! ## Banks and the programming supply (chapters 3 and 4) -/

/-- Which request a read access serves (R52). -/
inductive ReadRequest where
  | fetch | read | readRaw
deriving DecidableEq, Repr

/-- A read access (R52). Its stage is WAITING in a waiting list and SENSING in a bank's activity. -/
structure ReadAccess where
  port : Port
  request : ReadRequest
  entry : Option Nat
  sector : Nat
  line : Nat
  first : Nat
  length : Nat
  dropped : Bool := false
deriving DecidableEq, Repr

/-- Who issued a program sequence and what its end decides (R69, R79). -/
inductive Issuer where
  | openHeader (index : Nat) (image : Image)
  | write
  | publishFields (index length : Nat) (crc : Word32)
  | retiredMark (index : Nat)
  | discardMark (index : Nat)
  | publishedMark (job : Nat)
deriving DecidableEq, Repr

/-- A program sequence: byte values for consecutive bytes of one line (R69). -/
structure ProgramSequence where
  issuer : Issuer
  sector : Nat
  line : Nat
  first : Nat
  values : List Byte
deriving DecidableEq, Repr

/-- A media access (R69). -/
inductive MediaAccess where
  | verifyRead (job sector line : Nat)
  | program (q : ProgramSequence)
  | eraseStart (job sector : Nat)
deriving DecidableEq, Repr

/-- An access waiting for a bank; a media access has a credit (R68, R73). -/
inductive Access where
  | read (a : ReadAccess)
  | media (m : MediaAccess) (credit : Nat)
deriving DecidableEq, Repr

/-- What a SENSING bank senses: a read access, a verify read (of no job once it is dropped, R103) or a scan sense. -/
inductive Sensing where
  | read (a : ReadAccess)
  | verify (job : Option Nat) (sector line : Nat)
  | scan (sector : Nat)
deriving DecidableEq, Repr

/-- The phase of a program sequence; the program phase with its programming activity in microseconds (R77, R78). -/
inductive ProgramPhase where
  | blankCheck
  | program (activity : Nat)
  | readBack
deriving DecidableEq, Repr

/-- A bank's activity (R65, R66), with what it is busy with; SUSPENDING with the microseconds since the suspend began. -/
inductive Activity where
  | idle
  | lineOpen
  | sensing (x : Sensing)
  | programming (q : ProgramSequence) (phase : ProgramPhase)
  | erasing
  | suspending (elapsed : Nat)
deriving DecidableEq, Repr

/-- A bank's erase context (R65), with the job that issued the erase start (R69) and whether the bank has granted a read
access since the last suspend completion (R86). Times in microseconds. -/
structure EraseContext where
  sector : Nat
  job : Nat
  suspended : Bool := false
  runningTime : Nat := 0
  lockout : Nat := 0
  served : Bool := false
deriving DecidableEq, Repr

/-- A bank's claim on the programming supply (R65, R88). -/
inductive Claim where
  | none | access | resume
deriving DecidableEq, Repr

/-- A bank record (R65). Whether it holds a slot is read from the arbiter. -/
structure Bank where
  activity : Activity := .idle
  openLine : Option (Nat × Nat) := none
  erase : Option EraseContext := none
  waiting : List Access := []
  claim : Claim := .none
deriving DecidableEq, Repr

/-- A claimant or holder of the programming supply (R87). -/
inductive Claimant where
  | bank (b : BankId)
  | settings
deriving DecidableEq, Repr

/-! ## The job unit (chapter 5) -/

/-- What a job does (R92): its kind, target, phase, progress and running CRC. `marking` is false in READING. -/
inductive JobWork where
  | verify (index : Nat) (marking : Bool) (checked : Nat) (crc : Word32)
  | discard (index remaining : Nat)
  | erase (sector : Nat)
deriving DecidableEq, Repr

/-- A job (R92): its number, its work, and its current access: sector, line and stage (`active` false is WAITING). The
access's kind follows from the work. -/
structure Job where
  number : Nat
  work : JobWork
  sector : Nat
  line : Nat
  active : Bool
deriving DecidableEq, Repr

/-- The kind of a job (R92). -/
inductive JobKind where
  | verify | discard | erase
deriving DecidableEq, Repr

/-- The outcome of a job (R98). -/
inductive JobOutcome where
  | done | crcMismatch | markFailed | eraseFailed | protection | abandoned
deriving DecidableEq, Repr

/-- The last outcome of a free job slot (R100). -/
structure LastOutcome where
  kind : JobKind
  target : Nat
  outcome : JobOutcome
  progress : Option Nat
deriving DecidableEq, Repr

/-! ## The settings store and the scanner (chapters 8 and 9) -/

/-- The work of a settings-store operation (R141). -/
inductive SettingsWork where
  | protectBit (group : Nat)
  | eraseRow
  | bootEntry (c : ClientId) (values : List Byte)
  | eraseBoot
  | lockMark
deriving DecidableEq, Repr

/-- A settings-store operation (R141): WAITING or RUNNING, and the microseconds it has run. -/
structure SettingsOp where
  work : SettingsWork
  running : Bool := false
  elapsed : Nat := 0
deriving DecidableEq, Repr

/-- The stage of the start-up scanner (R153). -/
inductive ScanStage where
  | readingSettings | scanning | finished
deriving DecidableEq, Repr

/-- The state of the part. -/
structure State where
  /-- The array: byte b of line l of sector s at address 65536 s + 256 l + b; an unlisted address reads 0xFF. -/
  mem : List Cell := []
  /-- The protection row of the settings store; bit g is the bit of group g (R175). -/
  row : BitVec 64 := BitVec.allOnes 64
  /-- The boot area of the settings store, addresses 0 to 127; an unlisted address reads 0xFF (R175). -/
  boot : List Cell := []
  /-- The directory, by index 1 to 256; an unlisted index is FREE (R1). -/
  dir : List (Nat × Option Image) := []
  /-- The sector map, by sector 0 to 255 (R138). -/
  sectors : List (Nat × SectorRecord) := []
  /-- The working copy of the protection row (R144). -/
  rowCopy : BitVec 64 := 0
  /-- The management port (R162). -/
  mgmt : PortUnit := {}
  /-- The client port units 1 to 4. -/
  clients : Quad ClientUnit := ⟨{}, {}, {}, {}⟩
  /-- The bank records 0 to 3 (R65). -/
  banks : Quad Bank := ⟨{}, {}, {}, {}⟩
  /-- The holder of the first supply slot (R87). -/
  slotA : Option Claimant := none
  /-- The holder of the second supply slot (R87). -/
  slotB : Option Claimant := none
  /-- The arbiter's list of claims, oldest first (R87). -/
  claims : List Claimant := []
  /-- The job list, oldest first (R92). -/
  jobs : List Job := []
  /-- The last outcomes, by slot number 1 to 8 (R100). -/
  lastOutcomes : List (Nat × Option LastOutcome) := []
  /-- The lock state: true is IN_FORCE (R144). -/
  lockInForce : Bool := true
  /-- The settings-store operation, when there is one (R141). -/
  op : Option SettingsOp := none
  /-- The scanner's stage (R153). -/
  scanStage : ScanStage := .readingSettings
  /-- The scanner's position (R153; before SCANNING: log 30). -/
  scanPosition : Nat := 0
  /-- The scanner's next index (R153; before SCANNING: log 30). -/
  nextIndex : Nat := 1
  /-- Whether the RESET line is asserted (R151). -/
  resetHeld : Bool := false
  /-- Whether the WP input is high (R139). -/
  wpHigh : Bool := true
  /-- The model's own: how many free values have been drawn (log 7). -/
  freeCount : Nat := 0
  /-- The commands waiting, first in first out. -/
  pending : List Instr := []
deriving DecidableEq, Repr

/-- No command of the part ends in a fault: the manual describes no event that stops the part. -/
inductive Fault where
deriving DecidableEq, Repr

/-- No command is refused by the model. -/
inductive Refusal where
  /-- A command whose meaning is not written yet; raised by no arm. Safe: the run stops. -/
  | notModelled (mnemonic : String)
deriving DecidableEq, Repr

/-- The part right after reset: at the release of RESET with the PORT_RESET lines released (R152), the flash erased
(logs 4, 5) and WP high (log 6). Every field has its default, the value the table of R152 gives; the scanner's position
and next index, which R153 gives at SCANNING only, are 0 and 1 before it too (log 30). -/
def State.reset : State := {}

end Sys2Proof.Machine
end

