-- ==== Sys2Proof/Machine/Table.lean ====
section
/-! DEFINITION. Sparse tables (memory, directory, sector map, binding tables, last outcomes) in one canonical form, and the
four-fold collections of banks and client ports. -/

namespace Sys2Proof

/-- The k-th of four, counting from 0; 3 and above give the last. -/
def Four.nth : Nat → Four
  | 0 => .zero
  | 1 => .one
  | 2 => .two
  | _ => .three

/-- The position among four, counting from 0. -/
def Four.pos : Four → Nat
  | .zero => 0
  | .one => 1
  | .two => 2
  | .three => 3

/-- All four, in ascending order. -/
def Four.all : List Four := [.zero, .one, .two, .three]

/-- The port's number, 0 to 4 (00 section 2). -/
def Port.number : Port → Nat
  | .mgmt => 0
  | .client c => c.pos + 1

/-- All five ports, in ascending order. -/
def Port.all : List Port := [.mgmt, .client .zero, .client .one, .client .two, .client .three]

namespace Machine

/-- The member at a position. -/
def Quad.get {α : Type} (q : Quad α) : Four → α
  | .zero => q.v0
  | .one => q.v1
  | .two => q.v2
  | .three => q.v3

/-- Replace the member at a position. -/
def Quad.set {α : Type} (q : Quad α) (i : Four) (v : α) : Quad α :=
  match i with
  | .zero => { q with v0 := v }
  | .one => { q with v1 := v }
  | .two => { q with v2 := v }
  | .three => { q with v3 := v }

/-- Apply a function to every member. -/
def Quad.map {α : Type} (q : Quad α) (f : Four → α → α) : Quad α :=
  ⟨f .zero q.v0, f .one q.v1, f .two q.v2, f .three q.v3⟩

namespace Table

variable {α : Type} [DecidableEq α]

/-- The value at a key; `d` where the table lists none. -/
def get (d : α) : List (Nat × α) → Nat → α
  | [], _ => d
  | (k, v) :: t, a => if a = k then v else get d t a

/-- Set the value at a key, keeping the canonical form: setting the default `d` removes the key. -/
def put (d : α) : List (Nat × α) → Nat → α → List (Nat × α)
  | [], a, v => if v = d then [] else [(a, v)]
  | (k, w) :: t, a, v =>
    if a < k then (if v = d then (k, w) :: t else (a, v) :: (k, w) :: t)
    else if a = k then (if v = d then t else (a, v) :: t)
    else (k, w) :: put d t a v

/-- Apply a function that keeps the default to every value, keeping the canonical form. -/
def map (d : α) (f : α → α) : List (Nat × α) → List (Nat × α)
  | [] => []
  | (k, v) :: t => if f v = d then map d f t else (k, f v) :: map d f t

/-- Apply a function to the values at `n` consecutive keys from `a` on. -/
def update (d : α) (f : α → α) (t : List (Nat × α)) (a : Nat) : Nat → List (Nat × α)
  | 0 => t
  | n + 1 => update d f (put d t a (f (get d t a))) (a + 1) n

/-- The canonical form: keys strictly rising, all at least `lo`, no value equal to the default. -/
def wfFrom (d : α) (lo : Nat) : List (Nat × α) → Bool
  | [] => true
  | (k, v) :: t => decide (lo ≤ k) && decide (v ≠ d) && wfFrom d (k + 1) t

/-- The canonical form. -/
def wf (d : α) (t : List (Nat × α)) : Bool := wfFrom d 0 t

end Table

end Machine

end Sys2Proof
end

