-- ==== Sys2Proof/Machine/Flags.lean ====
section
/-! DEFINITION. Flags: the cause sets and the attention output they drive (R170 to R172), and the protection of a sector
(R139). -/

namespace Sys2Proof.Machine

/-- The causes in their fixed priority, highest first: the management port's, then the client ports' (R170). -/
def Cause.all : List Cause := [.jobFailed, .jobDone, .clientReset, .restarted, .revoked, .bootMissing, .newer]

/-- Whether the set holds a cause. -/
def CauseSet.has (k : CauseSet) : Cause → Bool
  | .jobFailed => k.jobFailed
  | .jobDone => k.jobDone
  | .clientReset => k.clientReset
  | .restarted => k.restarted
  | .revoked => k.revoked
  | .bootMissing => k.bootMissing
  | .newer => k.newer

/-- The set with a cause present or absent. -/
def CauseSet.put (k : CauseSet) (c : Cause) (v : Bool) : CauseSet :=
  match c with
  | .jobFailed => { k with jobFailed := v }
  | .jobDone => { k with jobDone := v }
  | .clientReset => { k with clientReset := v }
  | .restarted => { k with restarted := v }
  | .revoked => { k with revoked := v }
  | .bootMissing => { k with bootMissing := v }
  | .newer => { k with newer := v }

/-- The causes the set holds, highest priority first (R170). -/
def CauseSet.list (k : CauseSet) : List Cause := Cause.all.filter k.has

/-- The attention output: asserted while the cause set is not empty (R172). -/
def PortUnit.attention (u : PortUnit) : Bool := !u.causes.list.isEmpty

/-- The protection group of a sector (R138). -/
def groupOf (sector : Nat) : Nat := sector / 4

/-- A sector is protected when its group's bit in the working copy is 0, or when its group is 0 or 1 and WP is low
(R139). -/
def State.isProtected (s : State) (sector : Nat) : Bool :=
  !s.rowCopy.getLsbD (groupOf sector) || (decide (groupOf sector ≤ 1) && !s.wpHigh)

end Sys2Proof.Machine
end

