-- ==== Sys2Proof/Machine/Bytes.lean ====
section
/-! DEFINITION. Byte order: a field of two or more bytes holds its value most significant byte first (R173). -/

namespace Sys2Proof.Machine

/-- The `w` bytes of a number, most significant first (R173). -/
def be : Nat → Nat → List Byte
  | 0, _ => []
  | w + 1, n => BitVec.ofNat 8 (n / 256 ^ w) :: be w n

/-- The number a list of bytes holds, most significant first (R173). -/
def unbe (bytes : List Byte) : Nat := bytes.foldl (fun n b => n * 256 + b.toNat) 0

/-- The number in the field of `w` bytes at offset `off` of a list of bytes. -/
def field (bytes : List Byte) (off w : Nat) : Nat := unbe ((bytes.drop off).take w)

/-- The 32-bit value in the field of four bytes at offset `off`. -/
def field32 (bytes : List Byte) (off : Nat) : Word32 := BitVec.ofNat 32 (field bytes off 4)

/-- `n` bytes of 0xFF. -/
def blanks (n : Nat) : List Byte := List.replicate n 0xFF

end Sys2Proof.Machine
end

