-- ==== Sys2Proof/Machine/Crc.lean ====
section
/-! DEFINITION. The three CRCs of R176. -/

namespace Sys2Proof.Machine

/-- Eight applications of a one-bit step. -/
def eight {α : Type} (f : α → α) (x : α) : α := f (f (f (f (f (f (f (f x)))))))

/-- One bit of CRC-8, polynomial 0x07, unreflected (R176). -/
def crc8Bit (c : BitVec 8) : BitVec 8 := if c.msb then (c <<< 1) ^^^ 0x07 else c <<< 1

/-- CRC-8 of a list of bytes: initial value 0x00, no final XOR (R176). -/
def crc8 (bytes : List Byte) : Byte := bytes.foldl (fun c b => eight crc8Bit (c ^^^ b)) 0

/-- One bit of CRC-16, polynomial 0x1021, unreflected (R176). -/
def crc16Bit (c : BitVec 16) : BitVec 16 := if c.msb then (c <<< 1) ^^^ 0x1021 else c <<< 1

/-- CRC-16 of a list of bytes: initial value 0xFFFF, no final XOR (R176). -/
def crc16 (bytes : List Byte) : BitVec 16 :=
  bytes.foldl (fun c b => eight crc16Bit (c ^^^ ((b.zeroExtend 16 : BitVec 16) <<< (8 : Nat)))) 0xFFFF

/-- One bit of CRC-32, polynomial 0x04C11DB7 reflected: 0xEDB88320, from the least significant bit (R176). -/
def crc32Bit (c : Word32) : Word32 := if c.getLsbD 0 then (c >>> 1) ^^^ 0xEDB88320 else c >>> 1

/-- The initial value of the running CRC-32 (R176). -/
def crc32Init : Word32 := 0xFFFFFFFF

/-- Feed a list of bytes into the running CRC-32, in ascending order (R116, R176). -/
def crc32Feed (c : Word32) (bytes : List Byte) : Word32 :=
  bytes.foldl (fun c b => eight crc32Bit (c ^^^ (b.zeroExtend 32 : Word32))) c

/-- The finished CRC-32: the running value with the final XOR 0xFFFFFFFF (R176). -/
def crc32Finish (c : Word32) : Word32 := c ^^^ 0xFFFFFFFF

end Sys2Proof.Machine
end

