-- ==== Sys2Proof/Machine/Frames.lean ====
section
/-! DEFINITION. Link formats (chapter 11): kind codes, request frames and their decoding, status and value codes, response
frames, result fields (R164 to R166, R177 to R179). -/

namespace Sys2Proof

open Machine

/-- The kind byte of a request (R179). -/
def Request.code : Request → Byte
  | .identify => 0x01
  | .poll => 0x02
  | .entry _ => 0x10
  | .find _ => 0x11
  | .sector _ => 0x12
  | .jobs => 0x13
  | .openImage _ _ _ _ _ => 0x20
  | .write _ _ _ => 0x21
  | .publish _ _ _ => 0x22
  | .abandon _ => 0x23
  | .retire _ => 0x24
  | .revoke _ => 0x25
  | .discard _ => 0x26
  | .erase _ => 0x27
  | .clearAccessed _ => 0x28
  | .read _ _ _ => 0x30
  | .readRaw _ _ _ _ => 0x31
  | .setLevel _ _ => 0x38
  | .protect _ => 0x40
  | .unprotectAll => 0x41
  | .bootSet _ _ _ _ => 0x42
  | .bootClear => 0x43
  | .bootLock => 0x44
  | .bind _ _ _ => 0x60
  | .unbind _ => 0x61
  | .describe _ => 0x62
  | .fetch _ _ _ _ => 0x63

/-- The parameter bytes of a request, field after field (R178, R179). -/
def Request.params : Request → List Byte
  | .identify => []
  | .poll => []
  | .entry i => be 2 i
  | .find n => be 4 n.toNat
  | .sector s => be 1 s
  | .jobs => []
  | .openImage n f c k l => be 4 n.toNat ++ be 1 f ++ be 2 c ++ be 1 k ++ be 1 l
  | .write i o d => be 2 i ++ be 4 o ++ d
  | .publish i n c => be 2 i ++ be 4 n ++ be 4 c.toNat
  | .abandon j => be 1 j
  | .retire i => be 2 i
  | .revoke i => be 2 i
  | .discard i => be 2 i
  | .erase s => be 1 s
  | .clearAccessed i => be 2 i
  | .read i o n => be 2 i ++ be 4 o ++ be 2 n
  | .readRaw s l f n => be 1 s ++ be 1 l ++ be 1 f ++ be 2 n
  | .setLevel p l => be 1 p ++ be 1 l
  | .protect g => be 1 g
  | .unprotectAll => []
  | .bootSet p a b l => be 1 p ++ be 4 a.toNat ++ be 4 b.toNat ++ be 1 l
  | .bootClear => []
  | .bootLock => []
  | .bind a n g => be 1 a ++ be 4 n.toNat ++ be 2 g
  | .unbind a => be 1 a
  | .describe a => be 1 a
  | .fetch a o n t => be 1 a ++ be 4 o ++ be 1 n ++ be 1 t

namespace Machine

/-- A request of fixed parameter length: check 5 of R164. -/
def ofLength (n : Nat) (ps : List Byte) (r : Request) : Option Request := if ps.length = n then some r else none

/-- The request a kind byte and parameter bytes spell (R179); none when the kind is not in the table or the parameters
do not fit it (checks 4 and 5 of R164). -/
def decodeRequest (kind : Byte) (ps : List Byte) : Option Request :=
  match kind.toNat with
  | 0x01 => ofLength 0 ps .identify
  | 0x02 => ofLength 0 ps .poll
  | 0x10 => ofLength 2 ps (.entry (field ps 0 2))
  | 0x11 => ofLength 4 ps (.find (field32 ps 0))
  | 0x12 => ofLength 1 ps (.sector (field ps 0 1))
  | 0x13 => ofLength 0 ps .jobs
  | 0x20 => ofLength 9 ps (.openImage (field32 ps 0) (field ps 4 1) (field ps 5 2) (field ps 7 1) (field ps 8 1))
  | 0x21 => if 6 ≤ ps.length then some (.write (field ps 0 2) (field ps 2 4) (ps.drop 6)) else none
  | 0x22 => ofLength 10 ps (.publish (field ps 0 2) (field ps 2 4) (field32 ps 6))
  | 0x23 => ofLength 1 ps (.abandon (field ps 0 1))
  | 0x24 => ofLength 2 ps (.retire (field ps 0 2))
  | 0x25 => ofLength 2 ps (.revoke (field ps 0 2))
  | 0x26 => ofLength 2 ps (.discard (field ps 0 2))
  | 0x27 => ofLength 1 ps (.erase (field ps 0 1))
  | 0x28 => ofLength 2 ps (.clearAccessed (field ps 0 2))
  | 0x30 => ofLength 8 ps (.read (field ps 0 2) (field ps 2 4) (field ps 6 2))
  | 0x31 => ofLength 5 ps (.readRaw (field ps 0 1) (field ps 1 1) (field ps 2 1) (field ps 3 2))
  | 0x38 => ofLength 2 ps (.setLevel (field ps 0 1) (field ps 1 1))
  | 0x40 => ofLength 1 ps (.protect (field ps 0 1))
  | 0x41 => ofLength 0 ps .unprotectAll
  | 0x42 => ofLength 10 ps (.bootSet (field ps 0 1) (field32 ps 1) (field32 ps 5) (field ps 9 1))
  | 0x43 => ofLength 0 ps .bootClear
  | 0x44 => ofLength 0 ps .bootLock
  | 0x60 => ofLength 7 ps (.bind (field ps 0 1) (field32 ps 1) (field ps 5 2))
  | 0x61 => ofLength 1 ps (.unbind (field ps 0 1))
  | 0x62 => ofLength 1 ps (.describe (field ps 0 1))
  | 0x63 => ofLength 7 ps (.fetch (field ps 0 1) (field ps 1 4) (field ps 5 1) (field ps 6 1))
  | _ => none

/-- The kind bytes the management port accepts (R166, R179). -/
def mgmtKinds : List Byte :=
  [0x01, 0x02, 0x10, 0x11, 0x12, 0x13, 0x20, 0x21, 0x22, 0x23, 0x24, 0x25, 0x26, 0x27, 0x28, 0x30, 0x31, 0x38, 0x40, 0x41,
    0x42, 0x43, 0x44]

/-- The kind bytes a client port accepts (R166, R179). -/
def clientKinds : List Byte := [0x01, 0x02, 0x60, 0x61, 0x62, 0x63]

/-- Whether a port accepts requests of a kind (R166). -/
def accepts : Port → Byte → Bool
  | .mgmt, kind => mgmtKinds.contains kind
  | .client _, kind => clientKinds.contains kind

/-- The frame of a request: kind, tag, parameter length, parameters, CRC-8 (R177). -/
def requestFrame (tag : Byte) (r : Request) : List Byte :=
  let body := [r.code, tag] ++ be 2 r.params.length ++ r.params
  body ++ [crc8 body]

/-- Check 2 of R164: the number of bytes agrees with the parameter-length field, and the CRC-8 is correct (R176, R177). -/
def frameCorrect (bytes : List Byte) : Bool :=
  decide (bytes.length = 5 + field bytes 2 2) && bytes.getLast? == some (crc8 bytes.dropLast)

/-- The parameter bytes of a correct frame (R177). -/
def frameParams (bytes : List Byte) : List Byte := (bytes.drop 4).dropLast

/-- The status byte (R179). -/
def Status.code : Status → Byte
  | .ok => 0x00
  | .accepted => 0x01
  | .range => 0x10
  | .align => 0x11
  | .limit => 0x12
  | .wrongState => 0x13
  | .unbound => 0x20
  | .revoked => 0x21
  | .accessType => 0x22
  | .apertureBusy => 0x23
  | .noEntry => 0x24
  | .privilege => 0x25
  | .directoryFull => 0x30
  | .generationExhausted => 0x31
  | .extentOwned => 0x32
  | .busy => 0x33
  | .sectorFailed => 0x34
  | .protection => 0x35
  | .jobsFull => 0x36
  | .noJob => 0x37
  | .notAbandonable => 0x38
  | .busySector => 0x39
  | .bootLocked => 0x3A
  | .notBlank => 0x40
  | .programFailed => 0x41
  | .markFailed => 0x42
  | .eraseFailed => 0x43
  | .starting => 0x50
  | .frameError => 0x51
  | .unknownRequest => 0x52
  | .full => 0x53

/-- The bytes of a response frame: kind, tag, status, result length, results, CRC-8 (R177). -/
def Response.bytes (r : Response) : List Byte :=
  let body := [r.kind, r.tag, r.status.code] ++ be 2 r.results.length ++ r.results
  body ++ [crc8 body]

/-! ## Value codes (R174, R179) -/

/-- The code of an entry state, FREE for none (R179). -/
def stateCode : Option Image → Byte
  | none => 0x00
  | some im =>
    match im.state with
    | .opened => 0x01
    | .verifying _ => 0x02
    | .ready => 0x03
    | .retiring => 0x04
    | .retired => 0x05
    | .discarding _ => 0x06
    | .bad _ => 0x07

/-- The code of a bad reason (R179). -/
def BadReason.code : BadReason → Nat
  | .crcMismatch => 1
  | .markFailed => 2
  | .eraseFailed => 3
  | .protection => 4
  | .duplicate => 5
  | .tornMark => 6
  | .discardInterrupted => 7

/-- The code of a kind (R174). -/
def Kind.number : Kind → Nat
  | .exec => 1
  | .code => 2
  | .data => 3

/-- The kind a code stands for (R174). -/
def kindOfCode : Nat → Option Kind
  | 1 => some .exec
  | 2 => some .code
  | 3 => some .data
  | _ => none

/-- The code of a cause (R179). -/
def Cause.code : Cause → Byte
  | .jobFailed => 0x01
  | .jobDone => 0x02
  | .clientReset => 0x03
  | .restarted => 0x04
  | .revoked => 0x11
  | .bootMissing => 0x12
  | .newer => 0x13

/-- The code of a job kind (R179). -/
def JobKind.code : JobKind → Byte
  | .verify => 0x01
  | .discard => 0x02
  | .erase => 0x03

/-- The code of a job outcome (R179). -/
def JobOutcome.code : JobOutcome → Byte
  | .done => 0x00
  | .crcMismatch => 0x01
  | .markFailed => 0x02
  | .eraseFailed => 0x03
  | .protection => 0x04
  | .abandoned => 0x05

/-- The code of a flag or bit (R179). -/
def flagCode (b : Bool) : Byte := if b then 0x01 else 0x00

/-- A result field of `w` bytes that may be absent: its presence byte, then the value or `w` bytes of 0xFF (R178). -/
def optional (w : Nat) : Option Nat → List Byte
  | some n => 0x01 :: be w n
  | none => 0x00 :: blanks w

/-- A list of result items: a two-byte count, then the items (R178). -/
def listOf {α : Type} (item : α → List Byte) (l : List α) : List Byte := be 2 l.length ++ l.flatMap item

end Machine

end Sys2Proof
end

