-- ==== Sys2Proof/Machine/Header.lean ====
section
/-! DEFINITION. Stored formats (chapter 11): the header line and its validity (R108, R154, R155, R174), the boot entry and
its form (R145, R146, R175). -/

namespace Sys2Proof.Machine

/-- The signature of a header line (R174). -/
def signature : List Byte := [0x4E, 0x55, 0x49, 0xD7]

/-- Bytes 4 to 14 of a header line: name, generation, first sector, kind, count, level (R174). -/
def headerFields (name : Word32) (generation first : Nat) (kind : Kind) (count level : Nat) : List Byte :=
  be 4 name.toNat ++ be 2 generation ++ be 1 first ++ be 1 kind.number ++ be 2 count ++ be 1 level

/-- The 256 bytes the OPEN header program sequence asks for: the fields with their check, 0xFF everywhere else
(R108, R174). -/
def headerLine (name : Word32) (generation first : Nat) (kind : Kind) (count level : Nat) : List Byte :=
  let f := headerFields name generation first kind count level
  signature ++ f ++ blanks 1 ++ be 2 (crc16 f).toNat ++ blanks 238

/-- A field of `w` bytes at `off` is blank: every byte reads 0xFF (R173). -/
def blankField (line : List Byte) (off w : Nat) : Bool := ((line.drop off).take w).all (· == 0xFF)

/-- Byte `off` of a line. -/
def byteAt (line : List Byte) (off : Nat) : Byte := line.getD off 0xFF

/-- A mark is set when it reads 0x00, clear when it reads 0xFF, torn otherwise (00 section 2, R155). -/
def markTorn (b : Byte) : Bool := b != 0x00 && b != 0xFF

/-- The state the three marks of a header line record: the first row of the table of R155 that applies. -/
def markedState (line : List Byte) : ImageState :=
  let published := byteAt line 64
  let retired := byteAt line 65
  let discard := byteAt line 66
  if discard != 0xFF then .bad .discardInterrupted
  else if markTorn published || markTorn retired then .bad .tornMark
  else if retired == 0x00 then .retired
  else if published == 0x00 then .ready
  else .opened

/-- The payload capacity of an extent of `count` sectors (00 section 2, R2). -/
def capacity (count : Nat) : Nat := count * 65536 - 256

/-- Payload length and expected CRC as a header line holds them: present when neither field is blank (R3, R174). -/
def publishedFields (line : List Byte) : Option (Nat × Word32) :=
  if blankField line 32 4 || blankField line 36 4 then none else some (field line 32 4, field32 line 36)

/-- The image a valid header line of sector `s` describes, with the state its marks record; none when a condition of R154
fails. -/
def headerImage (s : Nat) (line : List Byte) : Option Image :=
  let name := field32 line 4
  let generation := field line 8 2
  let first := field line 10 1
  let count := field line 12 2
  let level := field line 14 1
  let published := publishedFields line
  match kindOfCode (field line 11 1) with
  | none => none
  | some kind =>
    if line.take 4 == signature
        && decide (field line 16 2 = (crc16 ((line.drop 4).take 11)).toNat)
        && name != 0 && decide (1 ≤ generation)
        && decide (first = s)
        && decide (1 ≤ count) && decide (count ≤ 256) && decide (s + count - 1 ≤ 255)
        && decide (level ≤ 3)
        && (match published with
            | none => true
            | some (n, _) => decide (1 ≤ n) && decide (n ≤ capacity count))
    then some { state := markedState line, name := some name, generation, first, count, kind, level, published }
    else none

/-! ## The boot entry (R145, R175) -/

/-- Bytes 0 to 8 of a boot entry. -/
def bootFields (primary fallback : Word32) (level : Nat) : List Byte :=
  be 4 primary.toNat ++ be 4 fallback.toNat ++ be 1 level

/-- The eleven bytes of a boot entry, with its header check (R146, R175). -/
def bootEntryBytes (primary fallback : Word32) (level : Nat) : List Byte :=
  bootFields primary fallback level ++ be 2 (crc16 (bootFields primary fallback level)).toNat

/-- The form of a boot entry's copy, judged from its eleven bytes (R145). -/
def bootForm (bytes : List Byte) : BootCopy :=
  if bytes.all (· == 0xFF) then .blank
  else if decide (field bytes 9 2 = (crc16 (bytes.take 9)).toNat) && field32 bytes 0 != 0 && decide (field bytes 8 1 ≤ 3)
  then .valid (field32 bytes 0) (field32 bytes 4) (field bytes 8 1)
  else .invalid

/-- The address of a client port's boot entry in the boot area (R175). -/
def bootEntryAddress (c : ClientId) : Nat := 16 * c.pos

/-- The address of the lock mark in the boot area (R175). -/
def lockMarkAddress : Nat := 64

end Sys2Proof.Machine
end

