-- ==== Sys2Proof/Machine/Operands.lean ====
section
/-! DEFINITION. Operand forms: the translation of a payload offset to a line (R51), the bank of a sector (R68), the
access types (R50), and the client port a parameter names. -/

namespace Sys2Proof.Machine

/-- The bank of a sector: the sector number divided by 64 (R68, R138). -/
def bankOf (sector : Nat) : BankId := Four.nth (sector / 64)

/-- The array address of a byte of a line. -/
def lineAddress (sector line byte : Nat) : Nat := sector * 65536 + line * 256 + byte

/-- The sector of payload offset `p` in an extent from sector `f` (R51). -/
def payloadSector (f p : Nat) : Nat := f + (256 + p) / 65536

/-- The line of payload offset `p` within its sector (R51). -/
def payloadLine (p : Nat) : Nat := (256 + p) % 65536 / 256

/-- The byte of payload offset `p` within its line (R51). -/
def payloadByte (p : Nat) : Nat := (256 + p) % 256

/-- Whether a kind admits an access type, 1 INSTRUCTION or 2 DATA (R50). -/
def Kind.admits : Kind → Nat → Bool
  | .exec, t => t == 1
  | .code, t => t == 1 || t == 2
  | .data, t => t == 2

/-- The client port a one-byte port number names, 1 to 4. -/
def clientOf : Nat → Option ClientId
  | 1 => some .zero
  | 2 => some .one
  | 3 => some .two
  | 4 => some .three
  | _ => none

/-- The number of a client port, 1 to 4. -/
def clientNumber (c : ClientId) : Nat := c.pos + 1

end Sys2Proof.Machine
end

