-- ==== Sys2Proof/Machine/Ops.lean ====
section
/-! DEFINITION. The named operations over the state: the array, the port units and their responses, the directory and its
counts, the sector map, the supply slots, the banks' waiting lists. Every meaning is built from these. -/

namespace Sys2Proof.Machine

open Host (Cell)

/-! ## The array and the boot area -/

namespace Memory

/-- What an unlisted address reads as: the erased value (00 section 2). -/
abbrev blank : Byte := 0xFF

/-- Read one byte. -/
def read (m : List Cell) (a : Nat) : Byte := Table.get blank m a

/-- Write one byte. -/
def write (m : List Cell) (a : Nat) (v : Byte) : List Cell := Table.put blank m a v

/-- Read `n` consecutive bytes. -/
def readN (m : List Cell) (a : Nat) : Nat → List Byte
  | 0 => []
  | n + 1 => read m a :: readN m (a + 1) n

/-- Write consecutive bytes. -/
def writeN (m : List Cell) (a : Nat) : List Byte → List Cell
  | [] => m
  | v :: vs => writeN (write m a v) (a + 1) vs

/-- Erase the `n` bytes from `a` on: each reads 0xFF (R81, R141). -/
def eraseN (m : List Cell) (a n : Nat) : List Cell := m.filter (fun c => decide (c.1 < a) || decide (a + n ≤ c.1))

/-- The canonical form of memory. -/
def wf (m : List Cell) : Bool := Table.wf blank m

end Memory

/-- The next `n` free bytes. -/
def freeBytes (k : Nat) : Nat → List Byte
  | 0 => []
  | n + 1 => Config.freeByte k :: freeBytes (k + 1) n

/-- Leave `n` bytes from `a` on indeterminate: each may read any value (R82). Irreducible, so that no tactic writes out
65,536 free bytes. -/
@[irreducible]
def scrambleN (m : List Cell) (a n k : Nat) : List Cell := Memory.writeN m a (freeBytes k n)

/-- What a byte whose programming failed or was cut may hold (R78): a byte that was to be programmed from 0xFF to `v`
keeps any of the bits that `v` clears; a byte that was not to be programmed keeps its value. -/
def cutByte (old v free : Byte) : Byte := if old = 0xFF then v ||| free else old

/-- The bytes a failed or cut program phase leaves in its targets (R78). -/
def cutBytes (m : List Cell) (a k : Nat) : List Byte → List Byte
  | [] => []
  | v :: vs => cutByte (Memory.read m a) v (Config.freeByte k) :: cutBytes m (a + 1) (k + 1) vs

/-! ## Units of the state -/

/-- A bank record. -/
def State.bank (s : State) (b : BankId) : Bank := s.banks.get b

/-- Replace a bank record. -/
def State.setBank (s : State) (b : BankId) (v : Bank) : State := { s with banks := s.banks.set b v }

/-- A client port unit. -/
def State.client (s : State) (c : ClientId) : ClientUnit := s.clients.get c

/-- Replace a client port unit. -/
def State.setClient (s : State) (c : ClientId) (v : ClientUnit) : State := { s with clients := s.clients.set c v }

/-- The record of a port. -/
def State.port (s : State) : Port → PortUnit
  | .mgmt => s.mgmt
  | .client c => (s.client c).port

/-- Replace the record of a port. -/
def State.setPort (s : State) (p : Port) (u : PortUnit) : State :=
  match p with
  | .mgmt => { s with mgmt := u }
  | .client c => s.setClient c { s.client c with port := u }

/-! ## Responses and causes -/

/-- Place a response frame on the link output: it begins at once when the link is sending nothing (R168). -/
def PortUnit.place (u : PortUnit) (r : Response) : PortUnit :=
  match u.sending with
  | none => { u with sending := some r }
  | some _ => { u with notBegun := u.notBegun ++ [r] }

/-- The response of the request in service leaves: it is placed, the request leaves the queue, and its service ends
(R162, R165, R167, R168). Nothing happens when no request is in service. -/
def PortUnit.respond (u : PortUnit) (st : Status) (results : List Byte) : PortUnit :=
  match u.inService, u.queue with
  | true, (tag, r) :: rest =>
    { u with queue := rest, inService := false }.place { kind := r.code, tag, status := st, results }
  | _, _ => u

/-- The response of a port's request in service leaves. -/
def respond (p : Port) (st : Status) (results : List Byte) (s : State) : State :=
  s.setPort p ((s.port p).respond st results)

/-- An answer at once to an arriving frame: placed while fewer than 4 frames are not yet begun, otherwise discarded with
the frame (R164, R165, R168). It carries no results. -/
def PortUnit.answerAtOnce (u : PortUnit) (kind tag : Byte) (st : Status) : PortUnit :=
  if u.notBegun.length < Config.answerRoom then u.place { kind, tag, status := st, results := [] } else u

/-- Raise a cause at a port (R170). -/
def raise (p : Port) (c : Cause) (s : State) : State :=
  s.setPort p { s.port p with causes := (s.port p).causes.put c true }

/-- Set or clear a port's read mark (R63). -/
def setReadMark (p : Port) (v : Bool) (s : State) : State := s.setPort p { s.port p with readMark := v }

/-! ## The directory -/

/-- The image of an entry; none while it is FREE (R1). -/
def State.image (s : State) (i : Nat) : Option Image := Table.get none s.dir i

/-- Give an entry an image, or make it FREE. -/
def State.setImage (s : State) (i : Nat) (o : Option Image) : State := { s with dir := Table.put none s.dir i o }

/-- Change the image of a non-FREE entry. -/
def State.updImage (s : State) (i : Nat) (f : Image → Image) : State :=
  match s.image i with
  | some im => s.setImage i (some (f im))
  | none => s

/-- A RETIRING entry whose two counts are 0 becomes RETIRED (R12). -/
def retireIfIdle (im : Image) : Image :=
  if im.state = .retiring ∧ im.bindings = 0 ∧ im.reads = 0 then { im with state := .retired } else im

/-- Raise an entry's reads in flight by 1 (R23). -/
def raiseReads (i : Nat) (s : State) : State := s.updImage i fun im => { im with reads := im.reads + 1 }

/-- Lower an entry's reads in flight by 1, and examine its counts (R12, R23). -/
def lowerReads (i : Nat) (s : State) : State := s.updImage i fun im => retireIfIdle { im with reads := im.reads - 1 }

/-- Raise an entry's binding count by 1 (R22). -/
def raiseBindings (i : Nat) (s : State) : State := s.updImage i fun im => { im with bindings := im.bindings + 1 }

/-- Lower an entry's binding count by 1, and examine its counts (R12, R22). -/
def lowerBindings (i : Nat) (s : State) : State :=
  s.updImage i fun im => retireIfIdle { im with bindings := im.bindings - 1 }

/-- The entries that hold a name, with their images, in index order. -/
def namedEntries (s : State) (name : Word32) : List (Nat × Image) :=
  s.dir.filterMap fun e =>
    match e.2 with
    | some im => if im.name = some name then some (e.1, im) else none
    | none => none

/-- The greatest generation held by any non-FREE entry of a name; 0 when there is none (R20). -/
def greatestGeneration (s : State) (name : Word32) : Nat :=
  (namedEntries s name).foldl (fun g e => max g e.2.generation) 0

/-- The entry of greater generation of two. -/
def newerOf (best : Option (Nat × Image)) (e : Nat × Image) : Option (Nat × Image) :=
  match best with
  | some b => if b.2.generation < e.2.generation then some e else some b
  | none => some e

/-- Newest resolution: the READY entry of the name with the greatest generation (R17). -/
def newest (s : State) (name : Word32) : Option (Nat × Image) :=
  ((namedEntries s name).filter fun e => e.2.state == .ready).foldl newerOf none

/-- Pinned resolution: the entry of that name and generation, when it is READY (R18). -/
def pinned (s : State) (name : Word32) (generation : Nat) : Option (Nat × Image) :=
  (namedEntries s name).find? fun e => e.2.generation == generation && e.2.state == .ready

/-- The entry indices, 1 to 256 (R1). -/
def entryIndices : List Nat := (List.range Config.entries).map (· + 1)

/-- The lowest-numbered FREE entry (R21). -/
def lowestFree (s : State) : Option Nat := entryIndices.find? fun i => (s.image i).isNone

/-- An entry index is 1 to 256 (R16). -/
def indexInRange (i : Nat) : Bool := decide (1 ≤ i) && decide (i ≤ Config.entries)

/-! ## The sector map -/

/-- A sector record (R138). -/
def State.sector (s : State) (n : Nat) : SectorRecord := Table.get {} s.sectors n

/-- Change a sector record. -/
def State.updSector (s : State) (n : Nat) (f : SectorRecord → SectorRecord) : State :=
  { s with sectors := Table.put {} s.sectors n (f (s.sector n)) }

/-- Change the records of the `count` sectors from `first` on. -/
def State.updExtent (s : State) (first count : Nat) (f : SectorRecord → SectorRecord) : State :=
  { s with sectors := Table.update {} f s.sectors first count }

/-- The sectors of an extent, in ascending order. -/
def extentSectors (first count : Nat) : List Nat := (List.range count).map (first + ·)

/-! ## The programming supply -/

/-- Whether a claimant holds a supply slot (R87). -/
def State.holdsSlot (s : State) (c : Claimant) : Bool := s.slotA == some c || s.slotB == some c

/-- Release the slot a claimant holds (R89). -/
def releaseSlot (c : Claimant) (s : State) : State :=
  { s with slotA := if s.slotA = some c then none else s.slotA
           slotB := if s.slotB = some c then none else s.slotB }

/-- Lodge a claim at the end of the arbiter's list (R88, R90). -/
def lodge (c : Claimant) (s : State) : State := { s with claims := s.claims ++ [c] }

/-! ## The banks' waiting lists -/

/-- A bank is free when its activity is IDLE or OPEN (R66). -/
def Bank.isFree (k : Bank) : Bool :=
  match k.activity with
  | .idle => true
  | .lineOpen => true
  | _ => false

/-- A read access. -/
def Access.isRead : Access → Bool
  | .read _ => true
  | .media _ _ => false

/-- A verify read. -/
def Access.isVerify : Access → Bool
  | .media (.verifyRead _ _ _) _ => true
  | _ => false

/-- A supply-bound access: a program sequence or an erase start (R69). -/
def Access.isSupplyBound : Access → Bool
  | .media (.program _) _ => true
  | .media (.eraseStart _ _) _ => true
  | _ => false

/-- A media access with credit 8 is due (R73). -/
def Access.isDue : Access → Bool
  | .media _ credit => decide (Config.creditLimit ≤ credit)
  | .read _ => false

/-- One more read granted ahead: the credit of a media access rises by 1, up to 8 (R73). -/
def Access.credited : Access → Access
  | .media m credit => .media m (min Config.creditLimit (credit + 1))
  | .read a => .read a

/-- An access joins the end of a bank's waiting list (R68). -/
def join (b : BankId) (a : Access) (s : State) : State :=
  s.setBank b { s.bank b with waiting := (s.bank b).waiting ++ [a] }

/-- A media access joins, with credit 0, the list of the bank of its sector (R68). -/
def joinMedia (sector : Nat) (m : MediaAccess) (s : State) : State := join (bankOf sector) (.media m 0) s

end Sys2Proof.Machine
end

