-- ==== Sys2Proof/Machine/Jobs.lean ====
section
/-! DEFINITION. The job unit (chapter 5): admission, the accesses a job issues, what it does at the end of each, and its
end; the content check of a VERIFY (R116, R117), the NEWER announcement (R120), and the erasing jobs (R130 to R135). -/

namespace Sys2Proof.Machine

/-- The kind of a job (R92). -/
def JobWork.kind : JobWork → JobKind
  | .verify _ _ _ _ => .verify
  | .discard _ _ => .discard
  | .erase _ => .erase

/-- The target of a job: an entry index or a sector (R92, R178). -/
def JobWork.target : JobWork → Nat
  | .verify i _ _ _ => i
  | .discard i _ => i
  | .erase n => n

/-- The progress of a job: bytes checked, sectors remaining, absent for an ERASE (R97). -/
def JobWork.progress : JobWork → Option Nat
  | .verify _ _ checked _ => some checked
  | .discard _ remaining => some remaining
  | .erase _ => none

/-- The job of a number (R92). -/
def State.job (s : State) (n : Nat) : Option Job := s.jobs.find? (·.number == n)

/-- Replace the record of the job of a number. -/
def State.updJob (s : State) (n : Nat) (f : Job → Job) : State :=
  { s with jobs := s.jobs.map fun j => if j.number = n then f j else j }

/-- The job slot numbers, 1 to 8 (R92). -/
def slotNumbers : List Nat := [1, 2, 3, 4, 5, 6, 7, 8]

/-- The lowest-numbered free slot (R93). -/
def freeSlot (s : State) : Option Nat := slotNumbers.find? fun n => (s.job n).isNone

/-- Whether all eight slots are occupied (R94). -/
def jobsFull (s : State) : Bool := (freeSlot s).isNone

/-- The last outcome a slot holds (R100). -/
def State.lastOutcome (s : State) (n : Nat) : Option LastOutcome := Table.get none s.lastOutcomes n

/-- The job of an access is being served: its stage becomes ACTIVE (R96). -/
def activateJob (n : Nat) (s : State) : State := s.updJob n fun j => { j with active := true }

/-- A job issues its next access: sector and line are written, the stage is WAITING, and the access joins its bank
(R68, R96). -/
def issue (n sector line : Nat) (m : MediaAccess) (s : State) : State :=
  joinMedia sector m (s.updJob n fun j => { j with sector, line, active := false })

/-- Remove every sector job target of a job (R97). -/
def clearTargets (n : Nat) (s : State) : State :=
  { s with sectors := Table.map {} (fun r => if r.target = some n then { r with target := none } else r) s.sectors }

/-- A job is admitted into slot `n`: it joins the job list, the slot's last outcome is removed, and its first access is
issued (R93). -/
def admitJob (n : Nat) (work : JobWork) (sector line : Nat) (m : MediaAccess) (s : State) : State :=
  joinMedia sector m
    { s with jobs := s.jobs ++ [{ number := n, work, sector, line, active := false }]
             lastOutcomes := Table.put none s.lastOutcomes n none }

/-- A job ends: its remaining sector targets are removed, it leaves the list, and its slot keeps the last outcome
(R98, R100). -/
def endJob (n : Nat) (outcome : JobOutcome) (progress : Option Nat) (s : State) : State :=
  match s.job n with
  | some j =>
    clearTargets n
      { s with jobs := s.jobs.filter (·.number != n)
               lastOutcomes := Table.put none s.lastOutcomes n
                 (some { kind := j.work.kind, target := j.work.target, outcome, progress }) }
  | none => s

/-! ## VERIFY (R116 to R120) -/

/-- The sector of payload line `k` of an extent from sector `f` (R116). -/
def verifySector (f k : Nat) : Nat := f + (k + 1) / 256

/-- The line of payload line `k` (R116). -/
def verifyLine (k : Nat) : Nat := (k + 1) % 256

/-- Admit a VERIFY of an entry into slot `n` (R8, R93): the entry becomes VERIFYING, and the read of payload line 0 is
issued. -/
def admitVerify (n i : Nat) (im : Image) (s : State) : State :=
  admitJob n (.verify i false 0 crc32Init) (verifySector im.first 0) (verifyLine 0)
    (.verifyRead n (verifySector im.first 0) (verifyLine 0))
    (s.setImage i (some { im with state := .verifying n }))

/-- Whether a client port holds a BOUND record of a name at a lower generation (R120). -/
def holdsOlder (u : ClientUnit) (name : Word32) (generation : Nat) : Bool :=
  u.apertures.any fun e =>
    match e.2 with
    | some r => !r.revoked && r.name == name && decide (r.generation < generation)
    | none => false

/-- Raise NEWER at one client port when it holds an older generation (R120). -/
def announceAt (name : Word32) (generation : Nat) (s : State) (c : ClientId) : State :=
  if holdsOlder (s.client c) name generation then raise (.client c) .newer s else s

/-- The NEWER announcement of an entry that has become READY (R120). A nameless entry announces nothing. -/
def announce (im : Image) (s : State) : State :=
  match im.name with
  | some name => Four.all.foldl (announceAt name im.generation) s
  | none => s

/-- A VERIFY ends with the entry BAD (R9, R98). -/
def verifyFails (n i : Nat) (reason : BadReason) (outcome : JobOutcome) (checked : Nat) (s : State) : State :=
  raise .mgmt .jobFailed
    (endJob n outcome (some checked) (s.updImage i fun im => { im with state := .bad reason }))

/-- The bytes a VERIFY takes from the line it has read: the line's bytes that belong to the payload (R116). -/
def payloadOf (length checked : Nat) (line : List Byte) : List Byte := line.take (min 256 (length - checked))

/-- A verify read of a job completes with the bytes of its line (R96, R97, R116, R117). -/
def verifyReadDone (n : Nat) (line : List Byte) (s : State) : State :=
  match s.job n with
  | some { work := .verify i false checked crc, .. } =>
    match s.image i with
    | some im =>
      match im.published with
      | some (length, expected) =>
        let bytes := payloadOf length checked line
        let checked' := checked + bytes.length
        let crc' := crc32Feed crc bytes
        if checked' < length then
          let k := checked' / 256
          issue n (verifySector im.first k) (verifyLine k) (.verifyRead n (verifySector im.first k) (verifyLine k))
            (s.updJob n fun j => { j with work := .verify i false checked' crc' })
        else if crc32Finish crc' = expected then
          issue n im.first 0
            (.program { issuer := .publishedMark n, sector := im.first, line := 0, first := 64, values := [0x00] })
            (s.updJob n fun j => { j with work := .verify i true checked' crc' })
        else verifyFails n i .crcMismatch .crcMismatch checked' s
      | none => s
    | none => s
  | _ => s

/-- The PUBLISHED mark's program sequence of a VERIFY ends, done or failed (R9, R118). -/
def publishedMarkDone (n : Nat) (done : Bool) (s : State) : State :=
  match s.job n with
  | some { work := .verify i _ checked _, .. } =>
    if done then
      match s.image i with
      | some im =>
        raise .mgmt .jobDone
          (announce im (endJob n .done (some checked) (s.setImage i (some { im with state := .ready }))))
      | none => s
    else verifyFails n i .markFailed .markFailed checked s
  | _ => s

/-! ## DISCARD and ERASE (R130 to R135) -/

/-- Admit a DISCARD of an entry into slot `n` (R14, R93, R97, R130): the entry becomes DISCARDING, every sector of the
extent takes the job target, and the erase start of the last sector is issued. -/
def admitDiscard (n i : Nat) (im : Image) (s : State) : State :=
  admitJob n (.discard i im.count) (im.first + im.count - 1) 0 (.eraseStart n (im.first + im.count - 1))
    ((s.setImage i (some { im with state := .discarding n })).updExtent im.first im.count
      fun r => { r with target := some n })

/-- Admit an ERASE of a sector into slot `n` (R93, R97, R134). -/
def admitErase (n sector : Nat) (s : State) : State :=
  admitJob n (.erase sector) sector 0 (.eraseStart n sector) (s.updSector sector fun r => { r with target := some n })

/-- How an erase start ends (R69). -/
inductive EraseOutcome where
  | completion | timeout | protection
deriving DecidableEq, Repr

/-- A DISCARD ends with the entry BAD (R132). -/
def discardFails (n i remaining : Nat) (reason : BadReason) (outcome : JobOutcome) (s : State) : State :=
  raise .mgmt .jobFailed
    (endJob n outcome (some remaining) (s.updImage i fun im => { im with state := .bad reason }))

/-- The erase of the first sector of a DISCARD's extent is complete: the entry becomes FREE and its extent unowned
(R15, R131). -/
def discardDone (n i : Nat) (im : Image) (s : State) : State :=
  raise .mgmt .jobDone
    (endJob n .done (some 0)
      ((s.updExtent im.first im.count fun r => { r with owner := none }).setImage i none))

/-- The erase of a sector above the first is complete: its target is removed, sectors remaining falls by 1, and the erase
start of the next lower sector is issued (R97, R130). -/
def discardNext (n i remaining sector : Nat) (im : Image) (s : State) : State :=
  issue n (im.first + remaining - 2) 0 (.eraseStart n (im.first + remaining - 2))
    ((s.updSector sector fun r => { r with target := none }).updJob n
      fun j => { j with work := .discard i (remaining - 1) })

/-- The end of a job's erase of a sector is handed to the job (R96, R130, R132, R135). -/
def eraseDone (n sector : Nat) (out : EraseOutcome) (s : State) : State :=
  match s.job n with
  | some { work := .discard i remaining, .. } =>
    match out with
    | .completion =>
      match s.image i with
      | some im => if remaining ≤ 1 then discardDone n i im s else discardNext n i remaining sector im s
      | none => s
    | .timeout => discardFails n i remaining .eraseFailed .eraseFailed s
    | .protection => discardFails n i remaining .protection .protection s
  | some { work := .erase _, .. } =>
    match out with
    | .completion =>
      raise .mgmt .jobDone (endJob n .done none (s.updSector sector fun r => { r with failed := false }))
    | .timeout => raise .mgmt .jobFailed (endJob n .eraseFailed none s)
    | .protection => raise .mgmt .jobFailed (endJob n .protection none s)
  | _ => s

end Sys2Proof.Machine
end

