-- ==== Sys2Proof/Machine/Programs.lean ====
section
/-! DEFINITION. What the end of a program sequence does for its issuer (R79): OPEN (R6, R108), WRITE (R111), PUBLISH
(R114), RETIRE (R11, R123), DISCARD (R14, R129), and a VERIFY's PUBLISHED mark (R118). -/

namespace Sys2Proof.Machine

/-- The outcomes of a program sequence (R78). -/
inductive ProgramOutcome where
  | done | notBlank | failed
deriving DecidableEq, Repr

/-- The status a failed or done program sequence gives a request that reports it plainly (R108, R111, R114). -/
def ProgramOutcome.status : ProgramOutcome → Status
  | .done => .ok
  | .notBlank => .notBlank
  | .failed => .programFailed

/-- A new entry is created with its extent owned (R2, R6, R138). -/
def createEntry (i : Nat) (im : Image) (s : State) : State :=
  (s.setImage i (some im)).updExtent im.first im.count fun r => { r with owner := some i }

/-- The end of an OPEN's header program sequence (R6, R108). -/
def openEnded (i : Nat) (im : Image) (out : ProgramOutcome) (s : State) : State :=
  match out with
  | .done => respond .mgmt .ok (be 2 i ++ be 2 im.generation) (createEntry i im s)
  | .notBlank => respond .mgmt .notBlank [] s
  | .failed => respond .mgmt .programFailed [] s

/-- The end of a PUBLISH's field program sequence (R3, R8, R93, R114). A slot is free, by R94; were none, the request would
be answered JOBS_FULL. -/
def publishEnded (i length : Nat) (crc : Word32) (out : ProgramOutcome) (s : State) : State :=
  match out with
  | .done =>
    match freeSlot s, s.image i with
    | some n, some im =>
      respond .mgmt .accepted (be 1 n) (admitVerify n i { im with published := some (length, crc) } s)
    | _, _ => respond .mgmt .jobsFull [] s
  | .notBlank => respond .mgmt .notBlank [] s
  | .failed => respond .mgmt .programFailed [] s

/-- The image a READY entry becomes at the end of its RETIRED mark's program sequence, with any outcome (R11). -/
def retiredImage (im : Image) : Image :=
  if im.bindings = 0 ∧ im.reads = 0 then { im with state := .retired } else { im with state := .retiring }

/-- The end of a RETIRE's mark program sequence (R11, R123). -/
def retireEnded (i : Nat) (out : ProgramOutcome) (s : State) : State :=
  match s.image i with
  | some im =>
    let im' := retiredImage im
    respond .mgmt (if out = .done then .ok else .markFailed)
      (stateCode (some im') :: (be 1 im'.bindings ++ be 1 im'.reads)) (s.setImage i (some im'))
  | none => s

/-- The end of a DISCARD's mark program sequence, with any outcome (R14, R93, R129). -/
def discardEnded (i : Nat) (out : ProgramOutcome) (s : State) : State :=
  match freeSlot s, s.image i with
  | some n, some im =>
    respond .mgmt (if out = .done then .accepted else .markFailed) (be 1 n) (admitDiscard n i im s)
  | _, _ => respond .mgmt .jobsFull [] s

/-- The outcome of a program sequence is handed to its issuer (R79). -/
def programEnded (issuer : Issuer) (out : ProgramOutcome) (s : State) : State :=
  match issuer with
  | .openHeader i im => openEnded i im out s
  | .write => respond .mgmt out.status [] s
  | .publishFields i length crc => publishEnded i length crc out s
  | .retiredMark i => retireEnded i out s
  | .discardMark i => discardEnded i out s
  | .publishedMark n => publishedMarkDone n (out = .done) s

end Sys2Proof.Machine
end

