-- ==== Sys2Proof/Machine/SettingsStore.lean ====
section
/-! DEFINITION. The settings store's operations (R90, R141 to R148) and the working copies (R144, R145). -/

namespace Sys2Proof.Machine

open Host (Cell)

/-- The boot-entry copy a client port takes from the boot area (R145, R175). -/
def bootCopyOf (boot : List Cell) (c : ClientId) : BootCopy := bootForm (Memory.readN boot (bootEntryAddress c) 11)

/-- The lock state the boot area's mark gives: IN_FORCE for any value but 0xFF (R145). -/
def lockOf (boot : List Cell) : Bool := Memory.read boot lockMarkAddress != 0xFF

/-- The working copy of the protection row takes the row as read (R144). -/
def refreshRow (s : State) : State := { s with rowCopy := s.row }

/-- The boot-entry copies and the lock state take what the boot area reads (R144, R145). -/
def refreshBoot (s : State) : State :=
  { s with lockInForce := lockOf s.boot
           clients := s.clients.map fun c u => { u with bootCopy := bootCopyOf s.boot c } }

/-- The part of the store an operation works on is read into its copies (R141). -/
def SettingsWork.refresh : SettingsWork → State → State
  | .protectBit _ => refreshRow
  | .eraseRow => refreshRow
  | .bootEntry _ _ => refreshBoot
  | .eraseBoot => refreshBoot
  | .lockMark => refreshBoot

/-- Whether an operation is a program or an erase (R141). -/
def SettingsWork.isErase : SettingsWork → Bool
  | .protectBit _ => false
  | .eraseRow => true
  | .bootEntry _ _ => false
  | .eraseBoot => true
  | .lockMark => false

/-- The bytes of the boot area a program operation targets: address and values (R146, R148, R175). -/
def SettingsWork.target : SettingsWork → Nat × List Byte
  | .protectBit _ => (0, [])
  | .eraseRow => (0, [])
  | .bootEntry c values => (bootEntryAddress c, values)
  | .eraseBoot => (0, [])
  | .lockMark => (lockMarkAddress, [0x00])

/-- The end of the settings-store operation, whatever the outcome: the slot is released, the copies are replaced, and the
request's response leaves (R141). -/
def endSettings (work : SettingsWork) (st : Status) (s : State) : State :=
  respond .mgmt st [] (work.refresh (releaseSlot .settings { s with op := none }))

/-- A byte of a program operation is acceptable when it reads 0xFF or already holds its value (R77, R141). -/
def acceptable (old v : Byte) : Bool := old == 0xFF || old == v

/-- Every target byte is acceptable (R77). -/
def allAcceptable (old values : List Byte) : Bool := (old.zip values).all fun p => acceptable p.1 p.2

/-- The operation's slot is granted: it enters RUNNING, and a program operation reads and compares its target; it ends at
once when a byte is not acceptable or nothing is left to program (R141, R142). -/
def startSettings (o : SettingsOp) (s : State) : State :=
  let running := { s with op := some { o with running := true, elapsed := 0 } }
  match o.work with
  | .protectBit g => if s.row.getLsbD g then running else endSettings o.work .ok s
  | .eraseRow => running
  | .eraseBoot => running
  | .bootEntry _ _ | .lockMark =>
    let values := o.work.target.2
    let old := Memory.readN s.boot o.work.target.1 values.length
    if !allAcceptable old values then endSettings o.work .notBlank s
    else if old == values then endSettings o.work .ok s
    else running

/-- The row with one bit replaced. -/
def setRowBit (row : BitVec 64) (g : Nat) (v : Bool) : BitVec 64 :=
  if v then row ||| BitVec.twoPow 64 g else row &&& ~~~ BitVec.twoPow 64 g

/-- A program operation brings its target to the values asked for (R141). -/
def programSettings (work : SettingsWork) (s : State) : State :=
  match work with
  | .protectBit g => { s with row := setRowBit s.row g false }
  | .eraseRow => s
  | .eraseBoot => s
  | .bootEntry _ _ | .lockMark => { s with boot := Memory.writeN s.boot work.target.1 work.target.2 }

/-- A failed or cut program operation leaves its target bytes or bit indeterminate (R78, R141): free values. -/
def cutSettings (work : SettingsWork) (s : State) : State :=
  match work with
  | .protectBit g =>
    { s with row := setRowBit s.row g (s.row.getLsbD g && (Config.freeByte s.freeCount).getLsbD 0)
             freeCount := s.freeCount + 1 }
  | .eraseRow => s
  | .eraseBoot => s
  | .bootEntry _ _ | .lockMark =>
    { s with boot := Memory.writeN s.boot work.target.1 (cutBytes s.boot work.target.1 s.freeCount work.target.2)
             freeCount := s.freeCount + work.target.2.length }

/-- An erase operation is complete: every byte of its unit reads 0xFF (R141). -/
def eraseSettings (work : SettingsWork) (s : State) : State :=
  match work with
  | .eraseRow => { s with row := BitVec.allOnes 64 }
  | .eraseBoot => { s with boot := Memory.eraseN s.boot 0 128 }
  | .protectBit _ => s
  | .bootEntry _ _ => s
  | .lockMark => s

/-- The 64 bits of eight free bytes. -/
def freeRow (k : Nat) : BitVec 64 := BitVec.ofNat 64 (unbe (freeBytes k 8))

/-- A timed-out or cut erase operation leaves its unit indeterminate (R141): free values. -/
def scrambleSettings (work : SettingsWork) (s : State) : State :=
  match work with
  | .eraseRow => { s with row := freeRow s.freeCount, freeCount := s.freeCount + 8 }
  | .eraseBoot => { s with boot := scrambleN s.boot 0 128 s.freeCount, freeCount := s.freeCount + 128 }
  | .protectBit _ => s
  | .bootEntry _ _ => s
  | .lockMark => s

end Sys2Proof.Machine
end

