-- ==== Sys2Proof/Machine/Settle.lean ====
section
/-! DEFINITION. What the banks, the arbiter and the settings store do by themselves at an event (chapter 4): complete read
accesses (R54), grant (R71 to R74), begin program sequences and erases (R75, R76, R80), suspend and resume (R83, R86), lodge
claims (R86, R88) and grant slots (R89, R90). `settle` does what is due until nothing is. -/

namespace Sys2Proof.Machine

/-! ## Completion of read accesses -/

/-- The bytes a read access returns (R53). -/
def readData (s : State) (a : ReadAccess) : List Byte :=
  Memory.readN s.mem (lineAddress a.sector a.line a.first) a.length

/-- The counts and the flag at a read access's completion (R54, items 1 to 3). -/
def countCompletion (a : ReadAccess) (s : State) : State :=
  match a.entry with
  | some i =>
    lowerReads i
      (if a.request = .fetch ∧ a.dropped = false then s.updImage i fun im => { im with accessed := true } else s)
  | none => s

/-- Completion of a read access (R54, R63). -/
def completeRead (a : ReadAccess) (s : State) : State :=
  let s' := setReadMark a.port false (countCompletion a s)
  if a.dropped then s' else respond a.port .ok (readData s a) s'

/-- The bytes of a line of the array. -/
def lineBytesAt (s : State) (sector line : Nat) : List Byte :=
  Memory.readN s.mem (lineAddress sector line 0) Config.lineBytes

/-! ## The grant rule -/

/-- A read access is granted: it leaves the list, credits rise while there is no erase context, and it is served as a line
hit or by a sense (R53, R71, R73, R74, R86). -/
def grantRead (b : BankId) (a : ReadAccess) (s : State) : State :=
  let k := s.bank b
  let rest := k.waiting.eraseP Access.isRead
  let waiting := if k.erase.isNone then rest.map Access.credited else rest
  let erase := k.erase.map fun e => { e with served := true }
  if k.openLine = some (a.sector, a.line) then completeRead a (s.setBank b { k with waiting, erase })
  else s.setBank b { k with waiting, erase, activity := .sensing (.read a) }

/-- The verify read first in a list among those a predicate admits is granted (R71, R74, R96). -/
def grantVerify (b : BankId) (sel : Access → Bool) (n sector line : Nat) (s : State) : State :=
  let k := s.bank b
  let waiting := k.waiting.eraseP sel
  if k.openLine = some (sector, line) then
    verifyReadDone n (lineBytesAt s sector line) (activateJob n (s.setBank b { k with waiting }))
  else activateJob n (s.setBank b { k with waiting, activity := .sensing (.verify (some n) sector line) })

/-- A due verify read. -/
def Access.isDueVerify (a : Access) : Bool := a.isVerify && a.isDue

/-- A due supply-bound access. -/
def Access.isDueSupplyBound (a : Access) : Bool := a.isSupplyBound && a.isDue

/-- Grant the first access a predicate admits, when it is a verify read. -/
def grantVerifyOf (b : BankId) (sel : Access → Bool) (s : State) : Option State :=
  match (s.bank b).waiting.find? sel with
  | some (.media (.verifyRead n sector line) _) => some (grantVerify b sel n sector line s)
  | _ => none

/-- Grant the oldest read access. -/
def grantReadOf (b : BankId) (s : State) : Option State :=
  match (s.bank b).waiting.find? Access.isRead with
  | some (.read a) => some (grantRead b a s)
  | _ => none

/-- Cases 2 to 5 of the grant rule (R71, R72, R73). -/
def grant (s : State) (b : BankId) : Option State :=
  let k := s.bank b
  if !k.isFree then none
  else if k.erase.isSome then grantReadOf b s
  else if k.waiting.any Access.isDueVerify then grantVerifyOf b Access.isDueVerify s
  else if k.waiting.any Access.isDueSupplyBound && !s.holdsSlot (.bank b) then none
  else if k.waiting.any Access.isRead then grantReadOf b s
  else grantVerifyOf b Access.isVerify s

/-! ## Program sequences and erases begin; resumes (case 1 of R71) -/

/-- The bank is idle with no claim and its slot released, as at every end of a program sequence and at an erase start that
finds its sector protected (R75, R79, R80). -/
def quitBank (b : BankId) (s : State) : State :=
  releaseSlot (.bank b) (s.setBank b { s.bank b with activity := .idle, openLine := none, claim := .none })

/-- The job that issued a program sequence, if one did (R69). -/
def Issuer.job : Issuer → Option Nat
  | .openHeader _ _ => none
  | .write => none
  | .publishFields _ _ _ => none
  | .retiredMark _ => none
  | .discardMark _ => none
  | .publishedMark n => some n

/-- The job of a granted media access becomes ACTIVE (R96). -/
def activate (n : Option Nat) (s : State) : State :=
  match n with
  | some j => activateJob j s
  | none => s

/-- A program sequence begins with its protection check and its blank-check sense; in a protected sector it ends
PROGRAM_FAILED at once (R75, R76). -/
def beginProgram (b : BankId) (q : ProgramSequence) (s : State) : State :=
  let k := { s.bank b with waiting := (s.bank b).waiting.eraseP Access.isSupplyBound }
  if s.isProtected q.sector then
    programEnded q.issuer .failed (quitBank b (activate q.issuer.job (s.setBank b k)))
  else activate q.issuer.job (s.setBank b { k with activity := .programming q .blankCheck, openLine := none })

/-- A waiting READ_RAW of a sector (R59). -/
def isRawOf (sector : Nat) : Access → Bool
  | .read a => a.request == .readRaw && a.sector == sector
  | .media _ _ => false

/-- The READ_RAW of an erasing sector that waits in the bank's list is withdrawn and answered BUSY_SECTOR (R59, R63). -/
def withdrawRaw (b : BankId) (sector : Nat) (s : State) : State :=
  let k := s.bank b
  if k.waiting.any (isRawOf sector) then
    respond .mgmt .busySector []
      (setReadMark .mgmt false (s.setBank b { k with waiting := k.waiting.filter fun a => !isRawOf sector a }))
  else s

/-- An erase start begins: it creates a RUNNING erase context, or ends PROTECTED (R75, R80). -/
def beginErase (b : BankId) (n sector : Nat) (s : State) : State :=
  let k := { s.bank b with waiting := (s.bank b).waiting.eraseP Access.isSupplyBound }
  if s.isProtected sector then
    eraseDone n sector .protection (quitBank b (activateJob n (s.setBank b k)))
  else
    withdrawRaw b sector
      (activateJob n (s.setBank b { k with
        activity := .erasing, openLine := none, claim := .none, erase := some { sector, job := n } }))

/-- The suspended erase of a bank resumes (R86). -/
def resume (b : BankId) (e : EraseContext) (s : State) : State :=
  s.setBank b { s.bank b with activity := .erasing, openLine := none, claim := .none,
                              erase := some { e with suspended := false, lockout := Config.lockoutTime } }

/-- Case 1 of the grant rule: the bank holds a slot for its claim and is free (R71, R76, R80, R86, R89). -/
def start (s : State) (b : BankId) : Option State :=
  let k := s.bank b
  if !(k.isFree && s.holdsSlot (.bank b)) then none
  else match k.claim, k.erase with
    | .resume, some e => if e.suspended then some (resume b e s) else none
    | .access, none =>
      match k.waiting.find? Access.isSupplyBound with
      | some (.media (.program q) _) => some (beginProgram b q s)
      | some (.media (.eraseStart n sector) _) => some (beginErase b n sector s)
      | _ => none
    | _, _ => none

/-! ## Suspends and claims -/

/-- A suspend begins: RUNNING erase, lockout 0, a read access waiting (R83). -/
def beginSuspend (s : State) (b : BankId) : Option State :=
  let k := s.bank b
  match k.activity, k.erase with
  | .erasing, some e =>
    if decide (e.lockout = 0) && k.waiting.any Access.isRead
    then some (s.setBank b { k with activity := .suspending 0 }) else none
  | _, _ => none

/-- A bank with a SUSPENDED erase lodges its claim for a resume (R86). -/
def lodgeResume (s : State) (b : BankId) : Option State :=
  let k := s.bank b
  match k.erase with
  | some e =>
    if e.suspended && k.isFree && k.claim == .none && (e.served || !k.waiting.any Access.isRead)
    then some (lodge (.bank b) (s.setBank b { k with claim := .resume })) else none
  | none => none

/-- A bank lodges its claim for its oldest supply-bound access (R88). -/
def lodgeAccess (s : State) (b : BankId) : Option State :=
  let k := s.bank b
  if k.claim == .none && !s.holdsSlot (.bank b) && k.erase.isNone && k.waiting.any Access.isSupplyBound
  then some (lodge (.bank b) (s.setBank b { k with claim := .access })) else none

/-- The arbiter grants a free slot to the oldest claim (R89). -/
def grantSlot (s : State) : Option State :=
  match s.claims with
  | [] => none
  | c :: rest =>
    if s.slotA = none then some { s with slotA := some c, claims := rest }
    else if s.slotB = none then some { s with slotB := some c, claims := rest }
    else none

/-- The settings store's waiting operation starts on its granted slot (R90, R141). -/
def settingsStart (s : State) : Option State :=
  match s.op with
  | some o => if !o.running && s.holdsSlot .settings then some (startSettings o s) else none
  | none => none

/-! ## Settling -/

/-- The next thing that is due at this event, if any. At one event: a granted slot is used first, then free slots are
granted, then resume claims are lodged, then the banks grant, then suspends begin, then new claims are lodged; banks
in ascending order (logs 10, 11). -/
def due (s : State) : Option State :=
  (Four.all.findSome? (start s)).or <|
  (settingsStart s).or <|
  (grantSlot s).or <|
  (Four.all.findSome? (lodgeResume s)).or <|
  (Four.all.findSome? (grant s)).or <|
  (Four.all.findSome? (beginSuspend s)).or <|
  (Four.all.findSome? (lodgeAccess s))

/-- Do what is due, at most `n` times. -/
def settleN : Nat → State → State
  | 0, s => s
  | n + 1, s =>
    match due s with
    | some s' => settleN n s'
    | none => s

/-- The most things that can be due at one event, with room to spare (log 13). -/
abbrev settleLimit : Nat := 1000

/-- Do what is due until nothing is. -/
def settle (s : State) : State := settleN settleLimit s

end Sys2Proof.Machine
end

