-- ==== Sys2Proof/Machine/Images.lean ====
section
/-! DEFINITION. The takes of the image requests: OPEN (R106, R107), WRITE (R110), PUBLISH (R113), ABANDON (R102, R103),
RETIRE (R122), REVOKE (R126), DISCARD (R128) and ERASE (R134). A take is made with the request in service. -/

namespace Sys2Proof.Machine

/-- A management program sequence joins its bank, whose claim, slot and start may follow at this event (R68, R88, R89). -/
def startSequence (q : ProgramSequence) (s : State) : State := settle (joinMedia q.sector (.program q) s)

/-! ## OPEN, WRITE, PUBLISH -/

/-- The first of the four conditions of the extent check that a sector fails (R107). -/
def sectorRefusal (s : State) (n : Nat) : Option Status :=
  let r := s.sector n
  if r.owner.isSome then some .extentOwned
  else if r.target.isSome then some .busy
  else if r.failed then some .sectorFailed
  else if s.isProtected n then some .protection
  else none

/-- The extent check: the first sector that fails, with its status (R107). -/
def extentRefusal (s : State) (first count : Nat) : Option (Nat × Status) :=
  (extentSectors first count).findSome? fun n => (sectorRefusal s n).map fun st => (n, st)

/-- Check 1 of OPEN but for the kind code (R106). -/
def openInRange (name : Word32) (first count level : Nat) : Bool :=
  name != 0 && decide (first ≤ 255) && decide (1 ≤ count) && decide (count ≤ 256) && decide (first + count - 1 ≤ 255)
    && decide (level ≤ 3)

/-- The image an OPEN creates (R6, R20). -/
def openedImage (name : Word32) (generation first count : Nat) (kind : Kind) (level : Nat) : Image :=
  { state := .opened, name := some name, generation, first, count, kind, level }

/-- The header program sequence of an OPEN (R108). -/
def headerSequence (i : Nat) (name : Word32) (generation first count : Nat) (kind : Kind) (level : Nat) :
    ProgramSequence :=
  { issuer := .openHeader i (openedImage name generation first count kind level), sector := first, line := 0, first := 0
    values := headerLine name generation first kind count level }

/-- The take of OPEN (R106). -/
def takeOpen (name : Word32) (first count kind level : Nat) (s : State) : State :=
  match kindOfCode kind, openInRange name first count level with
  | some k, true =>
    match lowestFree s with
    | none => respond .mgmt .directoryFull [] s
    | some i =>
      if 65535 ≤ greatestGeneration s name then respond .mgmt .generationExhausted [] s
      else match extentRefusal s first count with
        | some (n, st) => respond .mgmt st (be 1 n) s
        | none => startSequence (headerSequence i name (greatestGeneration s name + 1) first count k level) s
  | _, _ => respond .mgmt .range [] s

/-- The checks of a WRITE after the index (R110). -/
def writeRefusal (s : State) (im : Image) (offset length : Nat) : Option Status :=
  if im.state ≠ .opened then some .wrongState
  else if !(decide (1 ≤ length) && decide (length ≤ 256)) then some .align
  else if capacity im.count < offset + length then some .limit
  else if 256 < offset % 256 + length then some .align
  else if s.isProtected (payloadSector im.first offset) then some .protection
  else none

/-- The program sequence of a WRITE (R110). -/
def writeSequence (im : Image) (offset : Nat) (data : List Byte) : ProgramSequence :=
  { issuer := .write, sector := payloadSector im.first offset, line := payloadLine offset, first := payloadByte offset
    values := data }

/-- The take of WRITE (R110). -/
def takeWrite (i offset : Nat) (data : List Byte) (s : State) : State :=
  if !indexInRange i then respond .mgmt .range [] s
  else match s.image i with
    | none => respond .mgmt .wrongState [] s
    | some im =>
      match writeRefusal s im offset data.length with
      | some st => respond .mgmt st [] s
      | none => startSequence (writeSequence im offset data) s

/-- The checks of a PUBLISH after the index (R113). -/
def publishRefusal (s : State) (im : Image) (length : Nat) : Option Status :=
  if im.state ≠ .opened then some .wrongState
  else if !(decide (1 ≤ length) && decide (length ≤ capacity im.count)) then some .limit
  else if s.isProtected im.first then some .protection
  else if jobsFull s then some .jobsFull
  else none

/-- The field program sequence of a PUBLISH: bytes 32 to 39 of the header line (R113, R174). -/
def publishSequence (i : Nat) (im : Image) (length : Nat) (crc : Word32) : ProgramSequence :=
  { issuer := .publishFields i length crc, sector := im.first, line := 0, first := 32
    values := be 4 length ++ be 4 crc.toNat }

/-- The take of PUBLISH (R113). -/
def takePublish (i length : Nat) (crc : Word32) (s : State) : State :=
  if !indexInRange i then respond .mgmt .range [] s
  else match s.image i with
    | none => respond .mgmt .wrongState [] s
    | some im =>
      match publishRefusal s im length with
      | some st => respond .mgmt st [] s
      | none => startSequence (publishSequence i im length crc) s

/-! ## ABANDON and ERASE -/

/-- A bank without the verify read of job `n`: withdrawn from the list when it waits, its bytes to be dropped when it is
SENSING (R103). -/
def dropVerify (n : Nat) (k : Bank) : Bank :=
  { k with
    waiting := k.waiting.filter fun a => match a with
      | .media (.verifyRead m _ _) _ => m != n
      | _ => true
    activity := match k.activity with
      | .sensing (.verify (some m) sector line) =>
        if m = n then .sensing (.verify none sector line) else .sensing (.verify (some m) sector line)
      | x => x }

/-- An ABANDON that passes its checks (R10, R98, R103). -/
def abandonVerify (n i checked : Nat) (s : State) : State :=
  respond .mgmt .ok (be 2 i ++ be 4 checked)
    (endJob n .abandoned (some checked)
      ({ s with banks := s.banks.map fun _ k => dropVerify n k }.updImage i fun im => { im with state := .opened }))

/-- The take of ABANDON (R102). -/
def takeAbandon (n : Nat) (s : State) : State :=
  if !(decide (1 ≤ n) && decide (n ≤ Config.jobSlots)) then respond .mgmt .range [] s
  else match s.job n with
    | none => respond .mgmt .noJob [] s
    | some j =>
      match j.work with
      | .verify i false checked _ => abandonVerify n i checked s
      | .verify _ true _ _ => respond .mgmt .notAbandonable [] s
      | .discard _ _ => respond .mgmt .notAbandonable [] s
      | .erase _ => respond .mgmt .notAbandonable [] s

/-- The checks of an ERASE after the range (R134). -/
def eraseRefusal (s : State) (sector : Nat) : Option Status :=
  let r := s.sector sector
  if r.owner.isSome then some .extentOwned
  else if r.target.isSome then some .busy
  else if s.isProtected sector then some .protection
  else if jobsFull s then some .jobsFull
  else none

/-- The take of ERASE: the job is admitted and the response leaves at the take (R93, R134). -/
def takeErase (sector : Nat) (s : State) : State :=
  if 255 < sector then respond .mgmt .range [] s
  else match eraseRefusal s sector, freeSlot s with
    | some st, _ => respond .mgmt st [] s
    | none, some n => settle (respond .mgmt .accepted (be 1 n) (admitErase n sector s))
    | none, none => respond .mgmt .jobsFull [] s

/-! ## RETIRE, REVOKE, DISCARD -/

/-- The program sequence of a mark: one byte of line 0 of the first sector, with value 0x00 (R174). -/
def markSequence (issuer : Issuer) (sector byte : Nat) : ProgramSequence :=
  { issuer, sector, line := 0, first := byte, values := [0x00] }

/-- The take of RETIRE (R122). -/
def takeRetire (i : Nat) (s : State) : State :=
  if !indexInRange i then respond .mgmt .range [] s
  else match s.image i with
    | none => respond .mgmt .wrongState [] s
    | some im =>
      if im.state ≠ .ready then respond .mgmt .wrongState [] s
      else if s.isProtected im.first then respond .mgmt .protection [] s
      else startSequence (markSequence (.retiredMark i) im.first 65) s

/-- A BOUND record of an entry (R22). -/
def boundTo (i : Nat) : Option Aperture → Bool
  | some r => !r.revoked && r.entry == i
  | none => false

/-- How many BOUND records of an entry a client port holds. -/
def boundRecords (i : Nat) (u : ClientUnit) : Nat := (u.apertures.filter fun e => boundTo i e.2).length

/-- A record after a REVOKE of an entry: REVOKED when it was BOUND to it, with its copies and its boot flag (R41). -/
def revokeRecord (i : Nat) (o : Option Aperture) : Option Aperture :=
  if boundTo i o then o.map fun r => { r with revoked := true } else o

/-- A REVOKE of an entry at one client port: its BOUND records become REVOKED, and REVOKED is raised when there was one
(R41, R42). -/
def revokeAt (i : Nat) (u : ClientUnit) : ClientUnit :=
  if boundRecords i u = 0 then u
  else { u with apertures := Table.map none (revokeRecord i) u.apertures
                port := { u.port with causes := u.port.causes.put .revoked true } }

/-- The set of client ports notified: bit k - 1 stands for client port k (R126, R179). -/
def portsNotified (i : Nat) (s : State) : Nat :=
  Four.all.foldl (fun n c => if boundRecords i (s.client c) = 0 then n else n + 2 ^ c.pos) 0

/-- How many BOUND records of an entry the four tables hold. -/
def totalBound (i : Nat) (s : State) : Nat := Four.all.foldl (fun n c => n + boundRecords i (s.client c)) 0

/-- The take of REVOKE (R13, R41, R42, R126). -/
def takeRevoke (i : Nat) (s : State) : State :=
  if !indexInRange i then respond .mgmt .range [] s
  else match s.image i with
    | none => respond .mgmt .wrongState [] s
    | some im =>
      if im.state ≠ .retiring then respond .mgmt .wrongState [] s
      else
        let im' := retireIfIdle { im with bindings := 0 }
        respond .mgmt .ok
          (be 1 (totalBound i s) ++ be 1 (portsNotified i s) ++ be 1 im'.reads ++ [stateCode (some im')])
          ({ s with clients := s.clients.map fun _ u => revokeAt i u }.setImage i (some im'))

/-- The states DISCARD admits (R128). -/
def discardable : ImageState → Bool
  | .opened => true
  | .retired => true
  | .bad _ => true
  | .verifying _ => false
  | .ready => false
  | .retiring => false
  | .discarding _ => false

/-- The take of DISCARD (R128). -/
def takeDiscard (i : Nat) (s : State) : State :=
  if !indexInRange i then respond .mgmt .range [] s
  else match s.image i with
    | none => respond .mgmt .wrongState [] s
    | some im =>
      if !discardable im.state then respond .mgmt .wrongState [] s
      else match (extentSectors im.first im.count).find? s.isProtected with
        | some n => respond .mgmt .protection (be 1 n) s
        | none =>
          if jobsFull s then respond .mgmt .jobsFull [] s
          else startSequence (markSequence (.discardMark i) im.first 66) s

end Sys2Proof.Machine
end

