-- ==== Sys2Proof/Machine/Reads.lean ====
section
/-! DEFINITION. The takes of the reads (chapter 3): FETCH (R48 to R52), READ (R56) and READ_RAW (R58). A take is made with
the request in service at its port; a refused request is answered at the take. -/

namespace Sys2Proof.Machine

/-- A read access is created: it joins its bank, its entry's reads in flight rise by 1, and its port's read mark is set;
the bank may grant it at this event (R23, R52, R63, R71). -/
def createRead (a : ReadAccess) (s : State) : State :=
  let counted := match a.entry with
    | some i => raiseReads i s
    | none => s
  settle (join (bankOf a.sector) (.read a) (setReadMark a.port true counted))

/-- The checks of a FETCH after the first: the record, the alignment, the limit, the line, the access type (R48, R49,
R50). -/
def fetchRefusal (r : Aperture) (offset length access : Nat) : Option Status :=
  if r.revoked then some .revoked
  else if !(decide (offset % 4 = 0) && decide (length % 4 = 0) && decide (4 ≤ length) && decide (length ≤ 64))
  then some .align
  else if r.payloadLength < offset + length then some .limit
  else if 256 < offset % 256 + length then some .align
  else if !r.kind.admits access then some .accessType
  else none

/-- The read access of a FETCH (R51, R52). -/
def fetchAccess (c : ClientId) (r : Aperture) (offset length : Nat) : ReadAccess :=
  { port := .client c, request := .fetch, entry := some r.entry, sector := payloadSector r.first offset
    line := payloadLine offset, first := payloadByte offset, length }

/-- The aperture record of a client port; none while it is EMPTY (R28). -/
def State.aperture (s : State) (c : ClientId) (ap : Nat) : Option Aperture := Table.get none (s.client c).apertures ap

/-- The take of FETCH at a client port (R48). -/
def takeFetch (c : ClientId) (ap offset length access : Nat) (s : State) : State :=
  if !(decide (ap ≤ 7) && (access == 1 || access == 2)) then respond (.client c) .range [] s
  else match s.aperture c ap with
    | none => respond (.client c) .unbound [] s
    | some r =>
      match fetchRefusal r offset length access with
      | some st => respond (.client c) st [] s
      | none => createRead (fetchAccess c r offset length) s

/-- The limit of a management READ: the payload length when present, the payload capacity otherwise (R3, R56). -/
def readLimit (im : Image) : Nat :=
  match im.published with
  | some (length, _) => length
  | none => capacity im.count

/-- The checks of a READ after the index (R56). -/
def readRefusal (im : Image) (offset length : Nat) : Option Status :=
  if (match im.state with | .discarding _ => true | _ => false) then some .wrongState
  else if !(decide (1 ≤ length) && decide (length ≤ 256)) then some .align
  else if readLimit im < offset + length then some .limit
  else if 256 < offset % 256 + length then some .align
  else none

/-- The read access of a READ (R51, R52): its offset 0 is line 1, in a nameless entry too, whose header line R2 says a
management READ reads and R56 says only a READ_RAW reads (log 28). -/
def readAccess (i : Nat) (im : Image) (offset length : Nat) : ReadAccess :=
  { port := .mgmt, request := .read, entry := some i, sector := payloadSector im.first offset
    line := payloadLine offset, first := payloadByte offset, length }

/-- The take of READ (R56). -/
def takeRead (i offset length : Nat) (s : State) : State :=
  if !indexInRange i then respond .mgmt .range [] s
  else match s.image i with
    | none => respond .mgmt .wrongState [] s
    | some im =>
      match readRefusal im offset length with
      | some st => respond .mgmt st [] s
      | none => createRead (readAccess i im offset length) s

/-- A bank's erase context holds a sector (R58, R140). -/
def underErase (s : State) (sector : Nat) : Option EraseContext :=
  match (s.bank (bankOf sector)).erase with
  | some e => if e.sector = sector then some e else none
  | none => none

/-- The read access of a READ_RAW (R52). -/
def rawAccess (sector line first length : Nat) : ReadAccess :=
  { port := .mgmt, request := .readRaw, entry := none, sector, line, first, length }

/-- The take of READ_RAW (R58). -/
def takeReadRaw (sector line first length : Nat) (s : State) : State :=
  if !(decide (sector ≤ 255) && decide (line ≤ 255) && decide (first ≤ 255)) then respond .mgmt .range [] s
  else if !(decide (1 ≤ length) && decide (length ≤ 256) && decide (first + length ≤ 256))
  then respond .mgmt .align [] s
  else if (underErase s sector).isSome then respond .mgmt .busySector [] s
  else createRead (rawAccess sector line first length) s

end Sys2Proof.Machine
end

