-- ==== Sys2Proof/Machine/Clients.lean ====
section
/-! DEFINITION. Apertures and levels (chapter 2): the takes of SET_LEVEL (R32), BIND (R33, R34), UNBIND (R37) and DESCRIBE
(R39), and the boot binding of a client port (R149). -/

namespace Sys2Proof.Machine

/-- Set a client port's level (R31). -/
def setLevel (c : ClientId) (level : Nat) (s : State) : State := s.setClient c { s.client c with level }

/-- The take of SET_LEVEL (R32). -/
def takeSetLevel (port level : Nat) (s : State) : State :=
  match clientOf port, decide (level ≤ 3) with
  | some c, true => respond .mgmt .ok (be 1 (s.client c).level) (setLevel c level s)
  | _, _ => respond .mgmt .range [] s

/-- The BOUND record of an entry, its copies taken from the entry; a payload length that is absent is copied as 0 (R28,
R34). -/
def boundRecord (e : Nat × Image) (boot : Bool) : Aperture :=
  { revoked := false, entry := e.1, name := e.2.name.getD 0, generation := e.2.generation, kind := e.2.kind
    payloadLength := (e.2.published.map Prod.fst).getD 0, first := e.2.first, count := e.2.count, boot }

/-- Replace an aperture record of a client port. -/
def setAperture (c : ClientId) (ap : Nat) (r : Option Aperture) (s : State) : State :=
  s.setClient c { s.client c with apertures := Table.put none (s.client c).apertures ap r }

/-- An aperture becomes BOUND to an entry, whose binding count rises by 1 (R22, R34). -/
def bindAperture (c : ClientId) (ap : Nat) (e : Nat × Image) (boot : Bool) (s : State) : State :=
  raiseBindings e.1 (setAperture c ap (some (boundRecord e boot)) s)

/-- Resolution of a BIND: newest for generation 0, pinned otherwise (R17, R18, R33). -/
def resolve (s : State) (name : Word32) (generation : Nat) : Option (Nat × Image) :=
  if generation = 0 then newest s name else pinned s name generation

/-- The results of a BIND (R34). -/
def bindResults (e : Nat × Image) : List Byte :=
  be 2 e.1 ++ be 2 e.2.generation ++ be 1 e.2.kind.number ++ be 4 ((e.2.published.map Prod.fst).getD 0)

/-- The take of BIND at a client port (R33, R34). -/
def takeBind (c : ClientId) (ap : Nat) (name : Word32) (generation : Nat) (s : State) : State :=
  if 7 < ap then respond (.client c) .range [] s
  else if (s.aperture c ap).isSome then respond (.client c) .apertureBusy [] s
  else match resolve s name generation with
    | none => respond (.client c) .noEntry [] s
    | some e =>
      if e.2.level < (s.client c).level then respond (.client c) .privilege [] s
      else respond (.client c) .ok (bindResults e) (bindAperture c ap e false s)

/-- The aperture state code (R179). -/
def apertureCode : Option Aperture → Byte
  | none => 0x00
  | some r => if r.revoked then 0x02 else 0x01

/-- An aperture record is emptied; a record that was BOUND is no longer counted (R22, R37, R44). -/
def releaseRecord (r : Aperture) (s : State) : State := if r.revoked then s else lowerBindings r.entry s

/-- The take of UNBIND at a client port (R37). -/
def takeUnbind (c : ClientId) (ap : Nat) (s : State) : State :=
  if 7 < ap then respond (.client c) .range [] s
  else match s.aperture c ap with
    | none => respond (.client c) .unbound [] s
    | some r =>
      respond (.client c) .ok (be 2 r.entry ++ be 2 r.generation ++ [apertureCode (some r)])
        (releaseRecord r (setAperture c ap none s))

/-- The generation newest resolution of a record's name finds, 0 when it finds none or the record is EMPTY (R39). -/
def newestGeneration (s : State) (o : Option Aperture) : Nat :=
  ((o.bind fun r => newest s r.name).map fun e => e.2.generation).getD 0

/-- The report of an aperture (R39). -/
def apertureReport (s : State) (level : Nat) (o : Option Aperture) : List Byte :=
  [apertureCode o]
    ++ optional 2 (o.map Aperture.entry)
    ++ optional 4 (o.map fun r => r.name.toNat)
    ++ optional 2 (o.map Aperture.generation)
    ++ optional 1 (o.map fun r => r.kind.number)
    ++ optional 4 (o.map Aperture.payloadLength)
    ++ optional 1 (o.map Aperture.first)
    ++ optional 2 (o.map Aperture.count)
    ++ [flagCode ((o.map Aperture.boot).getD false)]
    ++ be 2 (newestGeneration s o)
    ++ be 1 level

/-- The take of DESCRIBE at a client port (R39). -/
def takeDescribe (c : ClientId) (ap : Nat) (s : State) : State :=
  if 7 < ap then respond (.client c) .range [] s
  else respond (.client c) .ok (apertureReport s (s.client c).level (s.aperture c ap)) s

/-! ## Boot binding (R149) -/

/-- Newest resolution of a name, when it finds an entry the level may bind (R149, steps 4 and 5). -/
def bootCandidate (s : State) (name : Word32) (level : Nat) : Option (Nat × Image) :=
  (newest s name).filter fun e => decide (level ≤ e.2.level)

/-- The level boot binding sets (R149, step 1). -/
def BootCopy.level : BootCopy → Nat
  | .valid _ _ level => level
  | .blank => 3
  | .invalid => 3

/-- Boot binding of a client port (R149). -/
def bootBind (c : ClientId) (s : State) : State :=
  let copy := (s.client c).bootCopy
  let s' := setLevel c copy.level s
  match copy with
  | .blank => s'
  | .invalid => raise (.client c) .bootMissing s'
  | .valid primary fallback level =>
    match (bootCandidate s' primary level).or (bootCandidate s' fallback level) with
    | some e => bindAperture c 0 e true s'
    | none => raise (.client c) .bootMissing s'

end Sys2Proof.Machine
end

