-- ==== Sys2Proof/Machine/Queries.lean ====
section
/-! DEFINITION. The takes of the requests that only report, or take a flag or a cause with the report: IDENTIFY (R169), POLL
(R171), ENTRY (R26), FIND (R27), SECTOR (R140), JOBS (R101), CLEAR_ACCESSED (R25). Result fields follow R178 in the order
of the request's rule (log 15). -/

namespace Sys2Proof.Machine

/-! ## Every port -/

/-- The results of IDENTIFY (R169, R175). -/
def identity (p : Port) (s : State) : List Byte :=
  be 2 Config.vendorCode ++ be 2 Config.partCode ++ [Config.revision] ++ be 1 p.number
    ++ be 1 4 ++ be 1 64 ++ be 2 256 ++ be 2 Config.lineBytes ++ be 2 Config.entries
    ++ be 1 4 ++ be 1 8 ++ be 1 Config.queueDepth ++ be 1 Config.jobSlots ++ be 1 2 ++ [flagCode s.lockInForce]

/-- The take of IDENTIFY (R169). -/
def takeIdentify (p : Port) (s : State) : State := respond p .ok (identity p s) s

/-- The results of POLL: the cause removed, or NONE, and the remainder (R171, R179). -/
def pollResults (k : CauseSet) : List Byte :=
  match k.list with
  | [] => 0x00 :: listOf (fun c : Cause => [c.code]) []
  | c :: rest => c.code :: listOf (fun c : Cause => [c.code]) rest

/-- The cause set after a POLL: without its cause of highest priority (R171). -/
def CauseSet.polled (k : CauseSet) : CauseSet :=
  match k.list with
  | [] => k
  | c :: _ => k.put c false

/-- The take of POLL (R171). -/
def takePoll (p : Port) (s : State) : State :=
  respond p .ok (pollResults (s.port p).causes) (s.setPort p { s.port p with causes := (s.port p).causes.polled })

/-! ## The directory -/

/-- The bad reason of an image (R1, R4). -/
def Image.badReason (im : Image) : Option BadReason :=
  match im.state with
  | .bad r => some r
  | _ => none

/-- The job field of an image (R4). -/
def Image.job (im : Image) : Option Nat :=
  match im.state with
  | .verifying n => some n
  | .discarding n => some n
  | _ => none

/-- The report of an entry (R26): for a FREE entry every optional field is absent, both counts are 0 and the flag is
clear. -/
def entryReport (i : Nat) (o : Option Image) : List Byte :=
  be 2 i ++ [stateCode o]
    ++ optional 4 (o.bind fun im => im.name.map BitVec.toNat)
    ++ optional 2 (o.map Image.generation)
    ++ optional 1 (o.map Image.first)
    ++ optional 2 (o.map Image.count)
    ++ optional 1 (o.map fun im => im.kind.number)
    ++ optional 1 (o.map Image.level)
    ++ optional 4 (o.bind fun im => im.published.map Prod.fst)
    ++ optional 4 (o.bind fun im => im.published.map fun p => p.2.toNat)
    ++ be 1 ((o.map Image.bindings).getD 0)
    ++ be 1 ((o.map Image.reads).getD 0)
    ++ [flagCode ((o.map Image.accessed).getD false)]
    ++ optional 1 (o.bind fun im => im.badReason.map BadReason.code)
    ++ be 1 ((o.bind Image.job).getD 0)

/-- The take of ENTRY (R16, R26). -/
def takeEntry (i : Nat) (s : State) : State :=
  if !indexInRange i then respond .mgmt .range [] s else respond .mgmt .ok (entryReport i (s.image i)) s

/-- Insert an item into a list in ascending order of generation. -/
def insertByGeneration (e : Nat × Image) : List (Nat × Image) → List (Nat × Image)
  | [] => [e]
  | h :: t => if e.2.generation ≤ h.2.generation then e :: h :: t else h :: insertByGeneration e t

/-- The entries of a name in ascending order of generation (R27). -/
def sortedByGeneration (l : List (Nat × Image)) : List (Nat × Image) := l.foldr insertByGeneration []

/-- An item of FIND's list: index, generation, state, and the bad reason of a BAD entry (R27). -/
def findItem (e : Nat × Image) : List Byte :=
  be 2 e.1 ++ be 2 e.2.generation ++ [stateCode (some e.2)] ++ optional 1 (e.2.badReason.map BadReason.code)

/-- The take of FIND (R27). -/
def takeFind (name : Word32) (s : State) : State :=
  if name = 0 then respond .mgmt .range [] s
  else respond .mgmt .ok (listOf findItem (sortedByGeneration (namedEntries s name))) s

/-- The take of CLEAR_ACCESSED (R16, R25). -/
def takeClearAccessed (i : Nat) (s : State) : State :=
  if !indexInRange i then respond .mgmt .range [] s
  else match s.image i with
    | none => respond .mgmt .wrongState [] s
    | some im => respond .mgmt .ok [flagCode im.accessed] (s.setImage i (some { im with accessed := false }))

/-! ## Sectors and jobs -/

/-- The code of the erase item of SECTOR (R140, R179). -/
def eraseCode : Option EraseContext → Byte
  | none => 0x00
  | some e => if e.suspended then 0x02 else 0x01

/-- The report of a sector (R140). -/
def sectorReport (n : Nat) (s : State) : List Byte :=
  be 1 n ++ be 1 (n / 64) ++ be 1 (groupOf n)
    ++ be 2 ((s.sector n).owner.getD 0) ++ [flagCode (s.sector n).failed] ++ be 2 ((s.sector n).target.getD 0)
    ++ [flagCode (s.rowCopy.getLsbD (groupOf n)), flagCode s.wpHigh, flagCode (s.isProtected n),
        eraseCode (underErase s n)]

/-- The take of SECTOR (R140). -/
def takeSector (n : Nat) (s : State) : State :=
  if 255 < n then respond .mgmt .range [] s else respond .mgmt .ok (sectorReport n s) s

/-- The phase code of a job (R92, R179). -/
def JobWork.phaseCode : JobWork → Byte
  | .verify _ false _ _ => 0x01
  | .verify _ true _ _ => 0x02
  | .discard _ _ => 0x03
  | .erase _ => 0x03

/-- The code of the kind of a job's current access (R96, R179). -/
def JobWork.accessCode : JobWork → Byte
  | .verify _ false _ _ => 0x01
  | .verify _ true _ _ => 0x02
  | .discard _ _ => 0x03
  | .erase _ => 0x03

/-- An item of the jobs part of JOBS (R101). -/
def jobItem (j : Job) : List Byte :=
  be 1 j.number ++ [j.work.kind.code] ++ be 2 j.work.target ++ [j.work.phaseCode] ++ optional 4 j.work.progress
    ++ [j.work.accessCode] ++ be 1 j.sector ++ be 1 j.line ++ [if j.active then 0x02 else 0x01]

/-- The last outcomes held, in ascending slot number (R101). -/
def heldOutcomes (s : State) : List (Nat × LastOutcome) :=
  slotNumbers.filterMap fun n => (s.lastOutcome n).map fun o => (n, o)

/-- An item of the last outcomes part of JOBS (R101). -/
def outcomeItem (e : Nat × LastOutcome) : List Byte :=
  be 1 e.1 ++ [e.2.kind.code] ++ be 2 e.2.target ++ [e.2.outcome.code] ++ optional 4 e.2.progress

/-- The take of JOBS (R101). -/
def takeJobs (s : State) : State :=
  respond .mgmt .ok (listOf jobItem s.jobs ++ listOf outcomeItem (heldOutcomes s)) s

end Sys2Proof.Machine
end

