-- ==== Sys2Proof/Machine/SettingsRequests.lean ====
section
/-! DEFINITION. The takes of the settings requests (R141 to R143, R146 to R148): each that passes its checks starts one
settings-store operation and lodges the store's claim (R90). -/

namespace Sys2Proof.Machine

/-- A settings-store operation is started: WAITING, with the store's claim lodged; the slot may be granted at this event
(R89, R90, R141). -/
def startOperation (work : SettingsWork) (s : State) : State := settle (lodge .settings { s with op := some { work } })

/-- Whether a sector of a protection group carries a job target (R142). -/
def groupTargeted (s : State) (g : Nat) : Bool := (extentSectors (4 * g) 4).any fun n => (s.sector n).target.isSome

/-- The take of PROTECT (R142). -/
def takeProtect (g : Nat) (s : State) : State :=
  if 63 < g then respond .mgmt .range [] s
  else if groupTargeted s g then respond .mgmt .busy [] s
  else startOperation (.protectBit g) s

/-- The take of UNPROTECT_ALL (R143). -/
def takeUnprotectAll (s : State) : State :=
  if !s.wpHigh then respond .mgmt .protection [] s else startOperation .eraseRow s

/-- The take of BOOT_SET (R146). Where a parameter is out of range and the lock is IN_FORCE, RANGE is answered (log 29). -/
def takeBootSet (port : Nat) (primary fallback : Word32) (level : Nat) (s : State) : State :=
  match clientOf port, primary != 0 && decide (level ≤ 3) with
  | some c, true =>
    if s.lockInForce then respond .mgmt .bootLocked [] s
    else startOperation (.bootEntry c (bootEntryBytes primary fallback level)) s
  | _, _ => respond .mgmt .range [] s

/-- The take of BOOT_CLEAR (R147). -/
def takeBootClear (s : State) : State :=
  if s.lockInForce then respond .mgmt .bootLocked [] s else startOperation .eraseBoot s

/-- The take of BOOT_LOCK (R148). -/
def takeBootLock (s : State) : State := startOperation .lockMark s

end Sys2Proof.Machine
end

