-- ==== Sys2Proof/Machine/Ports.lean ====
section
/-! DEFINITION. Port units (chapter 10): the take of a head request (R167), the arrival of a frame (R164, R165), the link
output (R168), and how an event ends: what is due is done, then every port that can take takes (log 12). -/

namespace Sys2Proof.Machine

/-! ## Taking -/

/-- The take of a request at the management port. A client request does not reach its queue (R166). -/
def takeAtMgmt (r : Request) (s : State) : State :=
  match r with
  | .identify => takeIdentify .mgmt s
  | .poll => takePoll .mgmt s
  | .entry i => takeEntry i s
  | .find n => takeFind n s
  | .sector n => takeSector n s
  | .jobs => takeJobs s
  | .openImage n f c k l => takeOpen n f c k l s
  | .write i o d => takeWrite i o d s
  | .publish i n c => takePublish i n c s
  | .abandon j => takeAbandon j s
  | .retire i => takeRetire i s
  | .revoke i => takeRevoke i s
  | .discard i => takeDiscard i s
  | .erase n => takeErase n s
  | .clearAccessed i => takeClearAccessed i s
  | .read i o n => takeRead i o n s
  | .readRaw n l f k => takeReadRaw n l f k s
  | .setLevel p l => takeSetLevel p l s
  | .protect g => takeProtect g s
  | .unprotectAll => takeUnprotectAll s
  | .bootSet p a b l => takeBootSet p a b l s
  | .bootClear => takeBootClear s
  | .bootLock => takeBootLock s
  | .bind _ _ _ => respond .mgmt .unknownRequest [] s
  | .unbind _ => respond .mgmt .unknownRequest [] s
  | .describe _ => respond .mgmt .unknownRequest [] s
  | .fetch _ _ _ _ => respond .mgmt .unknownRequest [] s

/-- The take of a request at a client port. A management request does not reach its queue (R166). -/
def takeAtClient (c : ClientId) (r : Request) (s : State) : State :=
  match r with
  | .identify => takeIdentify (.client c) s
  | .poll => takePoll (.client c) s
  | .bind ap n g => takeBind c ap n g s
  | .unbind ap => takeUnbind c ap s
  | .describe ap => takeDescribe c ap s
  | .fetch ap o n t => takeFetch c ap o n t s
  | _ => respond (.client c) .unknownRequest [] s

/-- The take of a request in service at its port. -/
def takeRequest (p : Port) (r : Request) (s : State) : State :=
  match p with
  | .mgmt => takeAtMgmt r s
  | .client c => takeAtClient c r s

/-- Whether a port takes its head request: the five conditions of R167. -/
def PortUnit.canTake (u : PortUnit) : Bool :=
  u.state == .ready && !u.queue.isEmpty && !u.inService && !u.readMark && decide (u.notBegun.length < Config.linkDepth)

/-- A port takes its head request, which is then in service (R162, R167). -/
def takeHead (p : Port) (s : State) : State :=
  match (s.port p).queue with
  | (_, r) :: _ => takeRequest p r (s.setPort p { s.port p with inService := true })
  | [] => s

/-- A port takes while it can, at most `n` requests. -/
def takeN : Nat → Port → State → State
  | 0, _, s => s
  | n + 1, p, s => if (s.port p).canTake then takeN n p (takeHead p s) else s

/-- A port takes while it can: each take shortens its queue or leaves a request in service. -/
def takesAt (p : Port) (s : State) : State := takeN (s.port p).queue.length p s

/-- One request more is taken, at the lowest port that can take. -/
def takeAny (s : State) : Option State := (Port.all.find? fun p => (s.port p).canTake).map fun p => takeHead p s

/-- Requests are taken while a port can take, at most `n` of them. -/
def takeAnyN : Nat → State → State
  | 0, s => s
  | n + 1, s =>
    match takeAny s with
    | some s' => takeAnyN n s'
    | none => s

/-- How many requests the five queues hold. -/
def queued (s : State) : Nat := Port.all.foldl (fun n p => n + (s.port p).queue.length) 0

/-- Requests are taken while a port can take. -/
def takesAll (s : State) : State := takeAnyN (queued s) s

/-- The end of every event outside the requests themselves: what is due is done, then requests are taken (log 12). -/
def conclude (s : State) : State := takesAll (settle s)

/-! ## Arrival of frames (R164, R165) -/

/-- An answer at once leaves a port (R165, R168). -/
def answer (p : Port) (kind tag : Byte) (st : Status) (s : State) : State :=
  s.setPort p ((s.port p).answerAtOnce kind tag st)

/-- Checks 6 of R164: a request that has passed the others joins the queue, and is taken when it can be. -/
def enqueue (p : Port) (tag : Byte) (r : Request) (s : State) : State :=
  if (s.port p).queue.length < Config.queueDepth
  then takesAt p (s.setPort p { s.port p with queue := (s.port p).queue ++ [(tag, r)] })
  else answer p r.code tag .full s

/-- A port ignores arriving frames: RESET is asserted, or the port is RESETTING (R151, R164 check 1). -/
def ignores (p : Port) (s : State) : Bool := s.resetHeld || (s.port p).state == .resetting

/-- A request arrives in a correct frame of a kind its port accepts (R164; log 1). -/
def arrive (p : Port) (tag : Byte) (r : Request) (s : State) : State :=
  if ignores p s then s
  else if (s.port p).state = .starting then answer p r.code tag .starting s
  else enqueue p tag r s

/-- The kind and tag an answer echoes, and how many free values that draws: a frame too short to hold them echoes free
values (R165; log 16). -/
def echoed (k : Nat) : List Byte → Byte × Byte × Nat
  | [] => (Config.freeByte k, Config.freeByte (k + 1), 2)
  | [kind] => (kind, Config.freeByte k, 1)
  | kind :: tag :: _ => (kind, tag, 0)

/-- An answer at once to an arrived frame (R165). -/
def answerFrame (p : Port) (bytes : List Byte) (st : Status) (s : State) : State :=
  let e := echoed s.freeCount bytes
  answer p e.1 e.2.1 st { s with freeCount := s.freeCount + e.2.2 }

/-- The kind byte of a frame. -/
def frameKind (bytes : List Byte) : Byte := bytes.headD 0

/-- The tag byte of a frame. -/
def frameTag (bytes : List Byte) : Byte := (bytes.drop 1).headD 0

/-- A frame arrives (R164). -/
def frameArrives (p : Port) (bytes : List Byte) (s : State) : State :=
  if ignores p s then s
  else if !frameCorrect bytes then answerFrame p bytes .frameError s
  else if (s.port p).state = .starting then answerFrame p bytes .starting s
  else if !accepts p (frameKind bytes) then answerFrame p bytes .unknownRequest s
  else match decodeRequest (frameKind bytes) (frameParams bytes) with
    | none => answerFrame p bytes .frameError s
    | some r => enqueue p (frameTag bytes) r s

/-! ## The link output (R168) -/

/-- The frame being sent has been sent, and the next begins (R168). -/
def PortUnit.sent (u : PortUnit) : PortUnit := { u with sending := u.notBegun.head?, notBegun := u.notBegun.tail }

/-- The link of a port has sent its frame; the port may take where a full link output held it back (R167, R168). Nothing
happens at a link that is sending nothing (log 2). -/
def frameSent (p : Port) (s : State) : State :=
  if (s.port p).sending.isNone then s else takesAt p (s.setPort p (s.port p).sent)

end Sys2Proof.Machine
end

