-- ==== Sys2Proof/Machine/Requests.lean ====
section
/-! DEFINITION. The meanings of the request rows: the request arrives at its port in a correct frame with its tag (R164), and
is taken when the port can take it (R167; log 1); what its take does is given by the rule named. -/

namespace Sys2Proof.Machine

/-- A meaning's outcome: no command of the part stops it. -/
abbrev Result := Host.Outcome State Fault Refusal

/-- IDENTIFY (R169). -/
def execIdentify (p : Port) (tag : Byte) (s : State) : Result := .next (arrive p tag .identify s)

/-- POLL (R171). -/
def execPoll (p : Port) (tag : Byte) (s : State) : Result := .next (arrive p tag .poll s)

/-- ENTRY (R26). -/
def execEntry (tag : Byte) (index : Nat) (s : State) : Result := .next (arrive .mgmt tag (.entry index) s)

/-- FIND (R27). -/
def execFind (tag : Byte) (name : Word32) (s : State) : Result := .next (arrive .mgmt tag (.find name) s)

/-- SECTOR (R140). -/
def execSector (tag : Byte) (sector : Nat) (s : State) : Result := .next (arrive .mgmt tag (.sector sector) s)

/-- JOBS (R101). -/
def execJobs (tag : Byte) (s : State) : Result := .next (arrive .mgmt tag .jobs s)

/-- OPEN (R106). -/
def execOpenImage (tag : Byte) (name : Word32) (first count kind level : Nat) (s : State) : Result := .next (arrive .mgmt tag (.openImage name first count kind level) s)

/-- WRITE (R110). -/
def execWrite (tag : Byte) (index offset : Nat) (data : List Byte) (s : State) : Result := .next (arrive .mgmt tag (.write index offset data) s)

/-- PUBLISH (R113). -/
def execPublish (tag : Byte) (index length : Nat) (crc : Word32) (s : State) : Result := .next (arrive .mgmt tag (.publish index length crc) s)

/-- ABANDON (R102). -/
def execAbandon (tag : Byte) (job : Nat) (s : State) : Result := .next (arrive .mgmt tag (.abandon job) s)

/-- RETIRE (R122). -/
def execRetire (tag : Byte) (index : Nat) (s : State) : Result := .next (arrive .mgmt tag (.retire index) s)

/-- REVOKE (R126). -/
def execRevoke (tag : Byte) (index : Nat) (s : State) : Result := .next (arrive .mgmt tag (.revoke index) s)

/-- DISCARD (R128). -/
def execDiscard (tag : Byte) (index : Nat) (s : State) : Result := .next (arrive .mgmt tag (.discard index) s)

/-- ERASE (R134). -/
def execErase (tag : Byte) (sector : Nat) (s : State) : Result := .next (arrive .mgmt tag (.erase sector) s)

/-- CLEAR_ACCESSED (R25). -/
def execClearAccessed (tag : Byte) (index : Nat) (s : State) : Result := .next (arrive .mgmt tag (.clearAccessed index) s)

/-- READ (R56). -/
def execRead (tag : Byte) (index offset length : Nat) (s : State) : Result := .next (arrive .mgmt tag (.read index offset length) s)

/-- READ_RAW (R58). -/
def execReadRaw (tag : Byte) (sector line first length : Nat) (s : State) : Result := .next (arrive .mgmt tag (.readRaw sector line first length) s)

/-- SET_LEVEL (R32). -/
def execSetLevel (tag : Byte) (port level : Nat) (s : State) : Result := .next (arrive .mgmt tag (.setLevel port level) s)

/-- PROTECT (R142). -/
def execProtect (tag : Byte) (group : Nat) (s : State) : Result := .next (arrive .mgmt tag (.protect group) s)

/-- UNPROTECT_ALL (R143). -/
def execUnprotectAll (tag : Byte) (s : State) : Result := .next (arrive .mgmt tag .unprotectAll s)

/-- BOOT_SET (R146). -/
def execBootSet (tag : Byte) (port : Nat) (primary fallback : Word32) (level : Nat) (s : State) : Result := .next (arrive .mgmt tag (.bootSet port primary fallback level) s)

/-- BOOT_CLEAR (R147). -/
def execBootClear (tag : Byte) (s : State) : Result := .next (arrive .mgmt tag .bootClear s)

/-- BOOT_LOCK (R148). -/
def execBootLock (tag : Byte) (s : State) : Result := .next (arrive .mgmt tag .bootLock s)

/-- BIND (R33). -/
def execBind (c : ClientId) (tag : Byte) (aperture : Nat) (name : Word32) (generation : Nat) (s : State) : Result := .next (arrive (.client c) tag (.bind aperture name generation) s)

/-- UNBIND (R37). -/
def execUnbind (c : ClientId) (tag : Byte) (aperture : Nat) (s : State) : Result := .next (arrive (.client c) tag (.unbind aperture) s)

/-- DESCRIBE (R39). -/
def execDescribe (c : ClientId) (tag : Byte) (aperture : Nat) (s : State) : Result := .next (arrive (.client c) tag (.describe aperture) s)

/-- FETCH (R48). -/
def execFetch (c : ClientId) (tag : Byte) (aperture offset length access : Nat) (s : State) : Result := .next (arrive (.client c) tag (.fetch aperture offset length access) s)

end Sys2Proof.Machine
end

