-- ==== Sys2Proof/Machine/StartUp.lean ====
section
/-! DEFINITION. The start-up scanner (R153 to R157). -/

namespace Sys2Proof.Machine

/-- A scan sense of line 0 of a sector begins (R66, R153). -/
def beginScanSense (sector : Nat) (s : State) : State :=
  s.setBank (bankOf sector) { s.bank (bankOf sector) with activity := .sensing (.scan sector) }

/-- The scanner has read the settings store: the copies take their values and the sense of sector 0 begins (R144, R145,
R153). -/
def settingsRead (s : State) : State :=
  beginScanSense 0 { refreshBoot (refreshRow s) with scanStage := .scanning, scanPosition := 0, nextIndex := 1 }

/-- Whether an entry created already holds the name and generation of a new one (R156). -/
def duplicates (s : State) (im : Image) : Bool :=
  match im.name with
  | some name => (namedEntries s name).any fun e => e.2.generation == im.generation
  | none => false

/-- The image the scanner creates from a valid header: nameless and BAD when it is a duplicate (R155, R156). -/
def scannedImage (s : State) (im : Image) : Image :=
  if duplicates s im then { im with state := .bad .duplicate, name := none } else im

/-- The scanner judges the line it has sensed: it creates an entry or none, and moves its position (R153 to R156). -/
def judge (sector : Nat) (s : State) : State :=
  match headerImage sector (lineBytesAt s sector 0) with
  | some im =>
    { createEntry s.nextIndex (scannedImage s im) s with
      nextIndex := s.nextIndex + 1, scanPosition := sector + im.count }
  | none => { s with scanPosition := sector + 1 }

/-- A client port becomes READY after its boot binding (R157, R160). -/
def readyClient (c : ClientId) (s : State) : State :=
  let t := bootBind c s
  t.setPort (.client c) { (t.client c).port with state := .ready }

/-- At the end of the scan a STARTING client port is boot-bound and becomes READY (R157, steps 1 and 2: each port's boot
binding touches only its own table and level, so the ports are done one after another). -/
def startClient (s : State) (c : ClientId) : State :=
  if (s.client c).port.state = .starting then readyClient c s else s

/-- The STARTING management port becomes READY (R157, step 2). -/
def startMgmt (s : State) : State :=
  if s.mgmt.state = .starting then { s with mgmt := { s.mgmt with state := .ready } } else s

/-- The end of the scan (R157). -/
def scanEnds (s : State) : State :=
  raise .mgmt .restarted (startMgmt (Four.all.foldl startClient { s with scanStage := .finished }))

/-- The scanner goes on from its position, or the scan ends (R153). -/
def scanOn (s : State) : State :=
  if s.scanPosition ≤ 255 then beginScanSense s.scanPosition s else takesAll (scanEnds s)

/-- The completion of a scan sense: the bank is IDLE with no open line, and the line is judged (R66, R153). -/
def scanSenseDone (sector : Nat) (s : State) : State :=
  scanOn (judge sector (s.setBank (bankOf sector) { s.bank (bankOf sector) with activity := .idle, openLine := none }))

end Sys2Proof.Machine
end

