-- ==== Sys2Proof/Machine/Resets.lean ====
section
/-! DEFINITION. Power-on, RESET (R151, R152) and the PORT_RESET lines (R158 to R160). -/

namespace Sys2Proof.Machine

/-! ## RESET -/

/-- A cut or failed program phase leaves its bytes indeterminate (R78, R91): free values within the limit of R78. -/
def cutLine (q : ProgramSequence) (s : State) : State :=
  let a := lineAddress q.sector q.line q.first
  { s with mem := Memory.writeN s.mem a (cutBytes s.mem a s.freeCount q.values)
           freeCount := s.freeCount + q.values.length }

/-- A cut or failed erase leaves its sector indeterminate (R82, R91): free values. -/
def scrambleSector (sector : Nat) (s : State) : State :=
  { s with mem := scrambleN s.mem (lineAddress sector 0 0) Config.sectorBytes s.freeCount
           freeCount := s.freeCount + Config.sectorBytes }

/-- RESET cuts a bank's program sequence: its line is left indeterminate when its program phase had begun (R91). -/
def cutProgram (b : BankId) (s : State) : State :=
  match (s.bank b).activity with
  | .programming q (.program _) => cutLine q s
  | .programming q .readBack => cutLine q s
  | _ => s

/-- RESET cuts a bank's erase, RUNNING or SUSPENDED (R91). -/
def cutErase (b : BankId) (s : State) : State :=
  match (s.bank b).erase with
  | some e => scrambleSector e.sector s
  | none => s

/-- What RESET leaves in the array of a bank's work (R91). -/
def cutBank (s : State) (b : BankId) : State := cutErase b (cutProgram b s)

/-- What RESET leaves in the settings store of a RUNNING operation (R141). -/
def cutStore (s : State) : State :=
  match s.op with
  | some o => if o.running then (if o.work.isErase then scrambleSettings o.work s else cutSettings o.work s) else s
  | none => s

/-- Every item of volatile state at its reset value (R151); the flash, the pins, the free-value count and the waiting
commands are kept. -/
def clearVolatile (s : State) : State :=
  { State.reset with
    mem := s.mem, row := s.row, boot := s.boot
    clients := s.clients.map fun _ u => { line := u.line }
    wpHigh := s.wpHigh, freeCount := s.freeCount, pending := s.pending, resetHeld := true }

/-- RESET is asserted (R151). -/
def assertReset (s : State) : State := clearVolatile (cutStore (Four.all.foldl cutBank s))

/-- At the release of RESET a client port whose PORT_RESET line is asserted begins RESETTING, with CLIENT_RESET raised
(R152). -/
def beginPort (s : State) (c : ClientId) : State :=
  if (s.client c).line
  then raise .mgmt .clientReset (s.setPort (.client c) { (s.client c).port with state := .resetting }) else s

/-- RESET is released (R152); nothing happens when it is not asserted (log 2). -/
def releaseReset (s : State) : State :=
  if s.resetHeld then Four.all.foldl beginPort { s with resetHeld := false } else s

/-! ## PORT_RESET -/

/-- A read access of a port (R62). -/
def isReadOf (p : Port) : Access → Bool
  | .read a => a.port == p
  | .media _ _ => false

/-- The entries of a port's waiting read accesses in a bank. -/
def waitingEntries (p : Port) (k : Bank) : List Nat :=
  k.waiting.filterMap fun a => match a with
    | .read r => if r.port = p then r.entry else none
    | .media _ _ => none

/-- A bank without a port's waiting read access, and with its sensing one marked dropped (R62). -/
def dropReads (p : Port) (k : Bank) : Bank :=
  { k with
    waiting := k.waiting.filter fun a => !isReadOf p a
    activity := match k.activity with
      | .sensing (.read a) => if a.port = p then .sensing (.read { a with dropped := true }) else .sensing (.read a)
      | x => x }

/-- A port's read access at a bank is dealt with by its stage: a WAITING one is withdrawn, its entry's reads in flight
lowered and the read mark cleared; a SENSING one is marked dropped (R62, R63, R70). -/
def dropReadsAt (p : Port) (s : State) (b : BankId) : State :=
  let k := s.bank b
  let s' := (waitingEntries p k).foldl (fun t i => lowerReads i t) (s.setBank b (dropReads p k))
  if k.waiting.any (isReadOf p) then setReadMark p false s' else s'

/-- One aperture of a table that is emptied gives up its count (R44). -/
def releaseAperture (s : State) (e : Nat × Option Aperture) : State :=
  match e.2 with
  | some r => releaseRecord r s
  | none => s

/-- Every aperture record of a client port is emptied, the counts of its BOUND records lowered (R44). -/
def emptyTable (c : ClientId) (s : State) : State :=
  (s.client c).apertures.foldl releaseAperture (s.setClient c { s.client c with apertures := [] })

/-- A port unit at the assertion of its PORT_RESET line: requests dropped, causes emptied, responses discarded (R158,
R168). The read mark is kept. -/
def PortUnit.resetting (u : PortUnit) : PortUnit := { state := .resetting, readMark := u.readMark }

/-- The PORT_RESET line of a READY client port is asserted (R158). -/
def resetReadyPort (c : ClientId) (s : State) : State :=
  let t := emptyTable c (Four.all.foldl (dropReadsAt (.client c)) s)
  raise .mgmt .clientReset (t.setPort (.client c) (t.client c).port.resetting)

/-- Set the level of a client port's PORT_RESET line. -/
def setLine (c : ClientId) (v : Bool) (s : State) : State := s.setClient c { s.client c with line := v }

/-- The PORT_RESET line of a client port is asserted (R158, R159; logs 25, 26). -/
def assertPortReset (c : ClientId) (s : State) : State :=
  let s' := setLine c true s
  if s.resetHeld then s'
  else match (s.client c).port.state with
    | .ready => conclude (resetReadyPort c s')
    | .starting => raise .mgmt .clientReset (s'.setPort (.client c) (s'.client c).port.resetting)
    | .resetting => s'

/-- The PORT_RESET line of a client port is released (R159, R160). -/
def releasePortReset (c : ClientId) (s : State) : State :=
  let s' := setLine c false s
  if s.resetHeld then s'
  else if (s.client c).port.state = .resetting then
    if s.scanStage = .finished then takesAll (readyClient c s')
    else s'.setPort (.client c) { (s'.client c).port with state := .starting }
  else s'

end Sys2Proof.Machine
end

