-- ==== Sys2Proof/Machine/Events.lean ====
section
/-! DEFINITION. The events of the banks (R74 to R86), of the settings store (R141) and the passing of time (log 3). Each
event is given by what it does where it can happen; `none` where the part is not in a state in which it comes (log 2). -/

namespace Sys2Proof.Machine

/-! ## Senses -/

/-- A sense completion of a read access or verify read: the line sensed becomes the open line, and the access completes;
the bytes of an abandoned job's verify read are dropped (R74, R103). -/
def senseDone (b : BankId) (s : State) : Option State :=
  match (s.bank b).activity with
  | .sensing (.read a) =>
    some (completeRead a (s.setBank b { s.bank b with activity := .lineOpen, openLine := some (a.sector, a.line) }))
  | .sensing (.verify job sector line) =>
    let s' := s.setBank b { s.bank b with activity := .lineOpen, openLine := some (sector, line) }
    match job with
    | some n => some (verifyReadDone n (lineBytesAt s' sector line) s')
    | none => some s'
  | _ => none

/-! ## Program sequences -/

/-- A program sequence ends: the bank is IDLE with no claim, its slot is released, and the issuer has the outcome (R79). -/
def endProgram (b : BankId) (q : ProgramSequence) (out : ProgramOutcome) (s : State) : State :=
  programEnded q.issuer out (quitBank b s)

/-- The bytes of a program sequence's targets as the array holds them. -/
def targetBytes (q : ProgramSequence) (s : State) : List Byte :=
  Memory.readN s.mem (lineAddress q.sector q.line q.first) q.values.length

/-- A bank enters a phase of its program sequence. -/
def enterPhase (b : BankId) (q : ProgramSequence) (phase : ProgramPhase) (s : State) : State :=
  s.setBank b { s.bank b with activity := .programming q phase }

/-- The blank-check completion (R77). -/
def blankCheckDone (b : BankId) (s : State) : Option State :=
  match (s.bank b).activity with
  | .programming q .blankCheck =>
    if !allAcceptable (targetBytes q s) q.values then some (endProgram b q .notBlank s)
    else if targetBytes q s = q.values then some (endProgram b q .done s)
    else some (enterPhase b q (.program 0) s)
  | _ => none

/-- The program completion: the read-back sense begins (R78). -/
def programDone (b : BankId) (s : State) : Option State :=
  match (s.bank b).activity with
  | .programming q (.program _) => some (enterPhase b q .readBack s)
  | _ => none

/-- The programming activity reaches 2 ms before the program completion (R78). -/
def programTimedOut (b : BankId) (s : State) : Option State :=
  match (s.bank b).activity with
  | .programming q (.program _) => some (endProgram b q .failed (cutLine q s))
  | _ => none

/-- The line's target bytes hold their intended values (R78). -/
def programLine (q : ProgramSequence) (s : State) : State :=
  { s with mem := Memory.writeN s.mem (lineAddress q.sector q.line q.first) q.values }

/-- The read-back completion (R78): with every target byte equal the sequence is done; otherwise it has failed. -/
def readBackDone (b : BankId) (equal : Bool) (s : State) : Option State :=
  match (s.bank b).activity with
  | .programming q .readBack =>
    if equal then some (endProgram b q .done (programLine q s)) else some (endProgram b q .failed (cutLine q s))
  | _ => none

/-! ## Erases -/

/-- The erase running in a bank, ERASING or SUSPENDING (R65, R81). -/
def runningErase (k : Bank) : Option EraseContext :=
  match k.activity, k.erase with
  | .erasing, some e => if e.suspended then none else some e
  | .suspending _, some e => if e.suspended then none else some e
  | _, _ => none

/-- The erase context is removed: the bank is IDLE with no open line, and its slot is released (R81, R82). -/
def endErase (b : BankId) (s : State) : State :=
  releaseSlot (.bank b) (s.setBank b { s.bank b with activity := .idle, openLine := none, erase := none })

/-- The erase completion (R81). -/
def eraseCompletes (b : BankId) (s : State) : Option State :=
  (runningErase (s.bank b)).map fun e =>
    eraseDone e.job e.sector .completion
      (endErase b { s with mem := Memory.eraseN s.mem (lineAddress e.sector 0 0) Config.sectorBytes })

/-- The running time of an erase reaches 2 s (R82, R136). -/
def eraseTimesOut (b : BankId) (s : State) : Option State :=
  (runningErase (s.bank b)).map fun e =>
    eraseDone e.job e.sector .timeout
      ((endErase b (scrambleSector e.sector s)).updSector e.sector fun r => { r with failed := true })

/-- The suspend completion: the context is SUSPENDED, the slot is released, and the bank is IDLE (R84). -/
def suspendDone (b : BankId) (s : State) : Option State :=
  match (s.bank b).activity, runningErase (s.bank b) with
  | .suspending _, some e =>
    some (releaseSlot (.bank b)
      (s.setBank b { s.bank b with activity := .idle, openLine := none
                                   erase := some { e with suspended := true, served := false } }))
  | _, _ => none

/-- The lockout of a bank's erase expires: its remaining lockout has passed as running time (R83, R86; log 19). It comes
only where the running time is then still less than 2 s: at 2 s the erase times out instead (R82). -/
def lockoutExpires (b : BankId) (s : State) : Option State :=
  match (s.bank b).activity, runningErase (s.bank b) with
  | .erasing, some e =>
    if 0 < e.lockout ∧ e.runningTime + e.lockout < Config.eraseLimit then
      some (s.setBank b { s.bank b with
        erase := some { e with runningTime := e.runningTime + e.lockout, lockout := 0 } })
    else none
  | _, _ => none

/-! ## The settings store (R141) -/

/-- The RUNNING settings-store operation. -/
def runningOp (s : State) : Option SettingsOp := s.op.filter fun o => o.running

/-- A settings-store program operation completes and is read back (R141). -/
def settingsProgramDone (equal : Bool) (s : State) : Option State :=
  match runningOp s with
  | some o =>
    if o.work.isErase then none
    else if equal then some (endSettings o.work .ok (programSettings o.work s))
    else some (endSettings o.work .programFailed (cutSettings o.work s))
  | none => none

/-- The programming activity of a settings-store operation reaches 2 ms (R141). -/
def settingsProgramTimedOut (s : State) : Option State :=
  match runningOp s with
  | some o => if o.work.isErase then none else some (endSettings o.work .programFailed (cutSettings o.work s))
  | none => none

/-- A settings-store erase completes (R141). -/
def settingsEraseDone (s : State) : Option State :=
  match runningOp s with
  | some o => if o.work.isErase then some (endSettings o.work .ok (eraseSettings o.work s)) else none
  | none => none

/-- A settings-store erase reaches 400 ms (R141). -/
def settingsEraseTimedOut (s : State) : Option State :=
  match runningOp s with
  | some o => if o.work.isErase then some (endSettings o.work .eraseFailed (scrambleSettings o.work s)) else none
  | none => none

/-! ## The scanner (R153) -/

/-- The scanner's read of the settings store completes (R153). -/
def settingsReadDone (s : State) : Option State :=
  if s.scanStage = .readingSettings ∧ s.resetHeld = false then some (settingsRead s) else none

/-- The scan sense under way completes (R153). -/
def scanSenseCompletes (s : State) : Option State :=
  if s.scanStage = .scanning ∧ s.resetHeld = false
      ∧ (s.bank (bankOf s.scanPosition)).activity = .sensing (.scan s.scanPosition)
  then some (scanSenseDone s.scanPosition s) else none

/-- An event of the flash, with what it makes due; the state is unchanged where the event cannot come (log 2). -/
def concluded (o : Option State) (s : State) : State :=
  match o with
  | some s' => conclude s'
  | none => s

end Sys2Proof.Machine
end

