-- ==== Sys2Proof/Machine/Time.lean ====
section
/-! DEFINITION. The passing of one microsecond, which is what a step does when no command waits (log 3): times grow, the
limits that are reached take effect, and what that makes due is done. -/

namespace Sys2Proof.Machine

/-- One microsecond of a running erase: running time grows, and the lockout remaining falls with it (R81, R86). -/
def EraseContext.later (e : EraseContext) : EraseContext :=
  if e.suspended then e else { e with runningTime := e.runningTime + 1, lockout := e.lockout - 1 }

/-- One microsecond of a bank (R78, R81, R84). -/
def Bank.later (k : Bank) : Bank :=
  match k.activity with
  | .programming q (.program activity) => { k with activity := .programming q (.program (activity + 1)) }
  | .erasing => { k with erase := k.erase.map EraseContext.later }
  | .suspending elapsed => { k with activity := .suspending (elapsed + 1), erase := k.erase.map EraseContext.later }
  | _ => k

/-- One microsecond of the settings-store operation (R141). -/
def SettingsOp.later (o : SettingsOp) : SettingsOp := if o.running then { o with elapsed := o.elapsed + 1 } else o

/-- One microsecond of every unit. -/
def later (s : State) : State := { s with banks := s.banks.map fun _ k => k.later, op := s.op.map SettingsOp.later }

/-- The limit a bank has reached takes effect: 2 s of running time (R82), 20 microseconds of suspending (R84; log 27), or
2 ms of programming activity (R78). -/
def bankLimit (s : State) (b : BankId) : State :=
  match (s.bank b).activity, runningErase (s.bank b) with
  | .programming _ (.program activity), _ =>
    if Config.programLimit ≤ activity then (programTimedOut b s).getD s else s
  | .erasing, some e => if Config.eraseLimit ≤ e.runningTime then (eraseTimesOut b s).getD s else s
  | .suspending elapsed, some e =>
    if Config.eraseLimit ≤ e.runningTime then (eraseTimesOut b s).getD s
    else if Config.suspendLimit ≤ elapsed then (suspendDone b s).getD s
    else s
  | _, _ => s

/-- The limit the settings-store operation has reached takes effect: 2 ms of programming, or 400 ms of erasing (R141). -/
def storeLimit (s : State) : State :=
  match s.op with
  | some o =>
    if o.work.isErase then
      if Config.settingsEraseLimit ≤ o.elapsed then (settingsEraseTimedOut s).getD s else s
    else if Config.programLimit ≤ o.elapsed then (settingsProgramTimedOut s).getD s
    else s
  | none => s

/-- One microsecond passes (log 3). While RESET is asserted nothing runs (R151). -/
def tick (s : State) : State :=
  if s.resetHeld then s else conclude (storeLimit (Four.all.foldl bankLimit (later s)))

end Sys2Proof.Machine
end

