-- ==== Sys2Proof/Machine/Pins.lean ====
section
/-! DEFINITION. The meanings of the pin, link, bank, scanner and settings-store rows. -/

namespace Sys2Proof.Machine

/-- POWER_ON. An assertion of RESET followed by its release (R151, R152). -/
def execPowerOn (s : State) : Result := .next (releaseReset (assertReset s))

/-- RESET_ASSERTED. RESET is asserted (R151). -/
def execResetAsserted (s : State) : Result := .next (assertReset s)

/-- RESET_RELEASED. RESET is released (R152). -/
def execResetReleased (s : State) : Result := .next (releaseReset s)

/-- PORT_RESET_ASSERTED (R158, R159). -/
def execPortResetAsserted (c : ClientId) (s : State) : Result := .next (assertPortReset c s)

/-- PORT_RESET_RELEASED (R159, R160). -/
def execPortResetReleased (c : ClientId) (s : State) : Result := .next (releasePortReset c s)

/-- WP_CHANGE. The WP input changes, and no record with it (R139). -/
def execWpChange (high : Bool) (s : State) : Result := .next { s with wpHigh := high }

/-- REQUEST_FRAME_ARRIVAL (R164). -/
def execRequestFrameArrival (p : Port) (bytes : List Byte) (s : State) : Result := .next (frameArrives p bytes s)

/-- RESPONSE_FRAME_SENT (R168). -/
def execResponseFrameSent (p : Port) (s : State) : Result := .next (frameSent p s)

/-- SENSE_COMPLETION (R74). -/
def execSenseCompletion (b : BankId) (s : State) : Result := .next (concluded (senseDone b s) s)

/-- BLANK_CHECK_COMPLETION (R77). -/
def execBlankCheckCompletion (b : BankId) (s : State) : Result := .next (concluded (blankCheckDone b s) s)

/-- PROGRAM_COMPLETION (R78). -/
def execProgramCompletion (b : BankId) (s : State) : Result := .next (concluded (programDone b s) s)

/-- PROGRAM_TIMEOUT (R78). -/
def execProgramTimeout (b : BankId) (s : State) : Result := .next (concluded (programTimedOut b s) s)

/-- READ_BACK_COMPLETION (R78). -/
def execReadBackCompletion (b : BankId) (equal : Bool) (s : State) : Result := .next (concluded (readBackDone b equal s) s)

/-- ERASE_COMPLETION (R81). -/
def execEraseCompletion (b : BankId) (s : State) : Result := .next (concluded (eraseCompletes b s) s)

/-- ERASE_TIMEOUT (R82). -/
def execEraseTimeout (b : BankId) (s : State) : Result := .next (concluded (eraseTimesOut b s) s)

/-- SUSPEND_COMPLETION (R84). -/
def execSuspendCompletion (b : BankId) (s : State) : Result := .next (concluded (suspendDone b s) s)

/-- LOCKOUT_EXPIRY (R83). -/
def execLockoutExpiry (b : BankId) (s : State) : Result := .next (concluded (lockoutExpires b s) s)

/-- SETTINGS_READ_COMPLETION (R153). -/
def execSettingsReadCompletion (s : State) : Result := .next ((settingsReadDone s).getD s)

/-- SCAN_SENSE_COMPLETION (R153). -/
def execScanSenseCompletion (s : State) : Result := .next ((scanSenseCompletes s).getD s)

/-- SETTINGS_PROGRAM_COMPLETION (R141). -/
def execSettingsProgramCompletion (equal : Bool) (s : State) : Result := .next (concluded (settingsProgramDone equal s) s)

/-- SETTINGS_PROGRAM_TIMEOUT (R141). -/
def execSettingsProgramTimeout (s : State) : Result := .next (concluded (settingsProgramTimedOut s) s)

/-- SETTINGS_ERASE_COMPLETION (R141). -/
def execSettingsEraseCompletion (s : State) : Result := .next (concluded (settingsEraseDone s) s)

/-- SETTINGS_ERASE_TIMEOUT (R141). -/
def execSettingsEraseTimeout (s : State) : Result := .next (concluded (settingsEraseTimedOut s) s)

end Sys2Proof.Machine
end

