-- ==== Sys2Proof/Machine/Dispatch.lean ====
section
/-! DEFINITION. The meaning of every command. -/

namespace Sys2Proof.Machine

/-- What a command does to everything but the queue of waiting commands. -/
def exec (i : Instr) (s : State) : Host.Outcome State Fault Refusal :=
  match i with
  | .powerOn => Sys2Proof.Machine.execPowerOn s
  | .resetAsserted => Sys2Proof.Machine.execResetAsserted s
  | .resetReleased => Sys2Proof.Machine.execResetReleased s
  | .portResetAsserted c => Sys2Proof.Machine.execPortResetAsserted c s
  | .portResetReleased c => Sys2Proof.Machine.execPortResetReleased c s
  | .wpChange high => Sys2Proof.Machine.execWpChange high s
  | .requestFrameArrival p bytes => Sys2Proof.Machine.execRequestFrameArrival p bytes s
  | .responseFrameSent p => Sys2Proof.Machine.execResponseFrameSent p s
  | .identify p tag => Sys2Proof.Machine.execIdentify p tag s
  | .poll p tag => Sys2Proof.Machine.execPoll p tag s
  | .entry tag index => Sys2Proof.Machine.execEntry tag index s
  | .find tag name => Sys2Proof.Machine.execFind tag name s
  | .sector tag sector => Sys2Proof.Machine.execSector tag sector s
  | .jobs tag => Sys2Proof.Machine.execJobs tag s
  | .openImage tag name first count kind level => Sys2Proof.Machine.execOpenImage tag name first count kind level s
  | .write tag index offset data => Sys2Proof.Machine.execWrite tag index offset data s
  | .publish tag index length crc => Sys2Proof.Machine.execPublish tag index length crc s
  | .abandon tag job => Sys2Proof.Machine.execAbandon tag job s
  | .retire tag index => Sys2Proof.Machine.execRetire tag index s
  | .revoke tag index => Sys2Proof.Machine.execRevoke tag index s
  | .discard tag index => Sys2Proof.Machine.execDiscard tag index s
  | .erase tag sector => Sys2Proof.Machine.execErase tag sector s
  | .clearAccessed tag index => Sys2Proof.Machine.execClearAccessed tag index s
  | .read tag index offset length => Sys2Proof.Machine.execRead tag index offset length s
  | .readRaw tag sector line first length => Sys2Proof.Machine.execReadRaw tag sector line first length s
  | .setLevel tag port level => Sys2Proof.Machine.execSetLevel tag port level s
  | .protect tag group => Sys2Proof.Machine.execProtect tag group s
  | .unprotectAll tag => Sys2Proof.Machine.execUnprotectAll tag s
  | .bootSet tag port primary fallback level => Sys2Proof.Machine.execBootSet tag port primary fallback level s
  | .bootClear tag => Sys2Proof.Machine.execBootClear tag s
  | .bootLock tag => Sys2Proof.Machine.execBootLock tag s
  | .bind c tag aperture name generation => Sys2Proof.Machine.execBind c tag aperture name generation s
  | .unbind c tag aperture => Sys2Proof.Machine.execUnbind c tag aperture s
  | .describe c tag aperture => Sys2Proof.Machine.execDescribe c tag aperture s
  | .fetch c tag aperture offset length access => Sys2Proof.Machine.execFetch c tag aperture offset length access s
  | .senseCompletion b => Sys2Proof.Machine.execSenseCompletion b s
  | .blankCheckCompletion b => Sys2Proof.Machine.execBlankCheckCompletion b s
  | .programCompletion b => Sys2Proof.Machine.execProgramCompletion b s
  | .programTimeout b => Sys2Proof.Machine.execProgramTimeout b s
  | .readBackCompletion b equal => Sys2Proof.Machine.execReadBackCompletion b equal s
  | .eraseCompletion b => Sys2Proof.Machine.execEraseCompletion b s
  | .eraseTimeout b => Sys2Proof.Machine.execEraseTimeout b s
  | .suspendCompletion b => Sys2Proof.Machine.execSuspendCompletion b s
  | .lockoutExpiry b => Sys2Proof.Machine.execLockoutExpiry b s
  | .settingsReadCompletion => Sys2Proof.Machine.execSettingsReadCompletion s
  | .scanSenseCompletion => Sys2Proof.Machine.execScanSenseCompletion s
  | .settingsProgramCompletion equal => Sys2Proof.Machine.execSettingsProgramCompletion equal s
  | .settingsProgramTimeout => Sys2Proof.Machine.execSettingsProgramTimeout s
  | .settingsEraseCompletion => Sys2Proof.Machine.execSettingsEraseCompletion s
  | .settingsEraseTimeout => Sys2Proof.Machine.execSettingsEraseTimeout s

end Sys2Proof.Machine
end

