-- ==== Sys2Proof/Safety.lean ====
section
/-! DEFINITION. The properties of states that the statements are about: what holds after reset and is kept by every step, and
the conditions under which a command has its own effect. -/

namespace Sys2Proof.Machine

open Host (Cell)

/-! ## Canonical data -/

/-- Memory, the boot area and every table are in canonical form. -/
structure State.Canonical (s : State) : Prop where
  mem : Memory.wf s.mem = true
  boot : Memory.wf s.boot = true
  dir : Table.wf none s.dir = true
  sectors : Table.wf {} s.sectors = true
  lastOutcomes : Table.wf none s.lastOutcomes = true
  apertures : ∀ c, Table.wf none (s.client c).apertures = true

/-! ## Ports (R162, R163, R168) -/

/-- A port unit keeps its bounds (R162, R168): at most 4 requests queued; a request in service is the head of the queue of a
READY port, with room for its response; at most 8 frames not yet begun, and none while the link sends nothing; only a
READY port queues. -/
structure PortUnit.Legal (u : PortUnit) : Prop where
  queue : u.queue.length ≤ 4
  service : u.inService = true → u.state = .ready ∧ u.queue ≠ [] ∧ u.notBegun.length ≤ 7
  room : u.notBegun.length ≤ 8
  link : u.sending = none → u.notBegun = []
  ready : u.state ≠ .ready → u.queue = []

/-- A client port unit keeps its bounds: with its port not READY its binding table is EMPTY and its cause set empty (R28,
R44, R170); a RESETTING port sends nothing (R158, R168). -/
structure ClientUnit.Legal (u : ClientUnit) : Prop where
  port : u.port.Legal
  table : u.port.state ≠ .ready → u.apertures = []
  causes : u.port.state ≠ .ready → u.port.causes = {}
  link : u.port.state = .resetting → u.port.sending = none

/-- The port units keep their bounds; while RESET is asserted every port is STARTING and sends nothing (R151, R162). -/
structure State.PortsLegal (s : State) : Prop where
  mgmt : s.mgmt.Legal
  mgmtState : s.mgmt.state ≠ .resetting
  clients : ∀ c, (s.client c).Legal
  held : s.resetHeld = true → ∀ p, (s.port p).state = .starting ∧ (s.port p).sending = none

/-- The levels of the client ports and of their boot-entry copies are 0 to 3 (R31, R145). -/
def State.LevelsLegal (s : State) : Prop := ∀ c, (s.client c).level ≤ 3 ∧ (s.client c).bootCopy.level ≤ 3

/-! ## Banks and the programming supply (R65 to R90) -/

/-- A bank programs or erases: its activity is one that the supply feeds (R87). -/
def Bank.powered (k : Bank) : Bool :=
  match k.activity with
  | .programming _ _ => true
  | .erasing => true
  | .suspending _ => true
  | _ => false

/-- Whether the settings store programs or erases (R90). -/
def storePowered (s : State) : Bool :=
  match s.op with
  | some o => o.running
  | none => false

/-- Whoever programs or erases holds a supply slot (R87). -/
structure State.Supplied (s : State) : Prop where
  banks : ∀ b, (s.bank b).powered = true → s.holdsSlot (.bank b) = true
  store : storePowered s = true → s.holdsSlot .settings = true

/-- How many of the four banks and the settings store program or erase. -/
def powered (s : State) : Nat := (Four.all.filter fun b => (s.bank b).powered).length + (if storePowered s then 1 else 0)

/-- A bank record agrees with its activity (R65 to R67, R76, R80, R83, R86): the open line is present in OPEN and absent
while IDLE or programming or erasing; a program sequence runs without an erase context; a running erase has one that is
not SUSPENDED; credits are at most 8 and the lockout remaining at most 100 microseconds. -/
structure Bank.Legal (k : Bank) : Prop where
  opened : k.activity = .lineOpen → k.openLine.isSome = true
  closed : (k.activity = .idle ∨ k.powered = true) → k.openLine = none
  program : ∀ q f, k.activity = .programming q f → k.erase = none
  erasing : (k.activity = .erasing ∨ ∃ n, k.activity = .suspending n) → ∃ e, k.erase = some e ∧ e.suspended = false
  credits : ∀ m c, Access.media m c ∈ k.waiting → c ≤ 8
  lockout : ∀ e, k.erase = some e → e.lockout ≤ 100

/-- Every bank record agrees with its activity. -/
def State.BanksLegal (s : State) : Prop := ∀ b, (s.bank b).Legal

/-! ## The boot lock (R145 to R148) -/

/-- The boot area is locked: the lock mark reads other than 0xFF, the lock is IN_FORCE, and no operation on a boot entry or
of erasing the boot area is under way. -/
structure State.Locked (s : State) : Prop where
  mark : Memory.read s.boot lockMarkAddress ≠ 0xFF
  inForce : s.lockInForce = true
  work : ∀ o, s.op = some o → o.work ≠ .eraseBoot ∧ ∀ c v, o.work ≠ .bootEntry c v

/-! ## The settings store (R141) -/

/-- A row bit that an operation of the settings store works on: its target, or its unit (R141). -/
def SettingsWork.rowBit : SettingsWork → Nat → Bool
  | .protectBit g, h => h == g
  | .eraseRow, _ => true
  | .bootEntry _ _, _ => false
  | .eraseBoot, _ => false
  | .lockMark, _ => false

/-- A byte of the boot area that an operation of the settings store works on: its target, or its unit (R141). -/
def SettingsWork.bootByte : SettingsWork → Nat → Bool
  | .protectBit _, _ => false
  | .eraseRow, _ => false
  | .bootEntry c values, a => decide (16 * c.pos ≤ a) && decide (a < 16 * c.pos + values.length)
  | .eraseBoot, a => decide (a < 128)
  | .lockMark, a => a == 64

/-- A settings-store operation, failed or cut, leaves what it does not work on as it was; and programming clears bits only
(R141). -/
structure SettingsWork.Spares (w : SettingsWork) (s t : State) : Prop where
  row : ∀ h, w.rowBit h = false → t.row.getLsbD h = s.row.getLsbD h
  boot : ∀ a, w.bootByte a = false → Memory.read t.boot a = Memory.read s.boot a
  cleared : w ≠ .eraseRow → ∀ h, s.row.getLsbD h = false → t.row.getLsbD h = false

/-! ## Counts (R22) -/

/-- The binding count of an entry is the number of BOUND records that carry its index (R22). -/
def State.Counted (s : State) : Prop := ∀ i im, s.image i = some im → im.bindings = totalBound i s

/-! ## The directory and what refers to it (R5, R12, R22, R30, R138) -/

/-- A program sequence that a request at the management port issued (R69). -/
def Issuer.isRequest : Issuer → Bool
  | .openHeader _ _ => true
  | .write => true
  | .publishFields _ _ _ => true
  | .retiredMark _ => true
  | .discardMark _ => true
  | .publishedMark _ => false

/-- A read access whose response ends the service of a request at the management port. -/
def ReadAccess.ofMgmt (a : ReadAccess) : Bool := a.port == .mgmt || a.request == .readRaw

/-- How much of a waiting access the management port's request in service waits for: 1 for its own, 0 for any other. -/
def Access.mgmtWork : Access → Nat
  | .read a => if a.ofMgmt then 1 else 0
  | .media (.program q) _ => if q.issuer.isRequest then 1 else 0
  | .media (.verifyRead _ _ _) _ => 0
  | .media (.eraseStart _ _) _ => 0

/-- How much of a bank's activity the management port's request in service waits for. -/
def Activity.mgmtWork : Activity → Nat
  | .sensing (.read a) => if a.ofMgmt then 1 else 0
  | .programming q _ => if q.issuer.isRequest then 1 else 0
  | _ => 0

/-- How much of a bank the management port's request in service waits for. -/
def Bank.mgmtWork (k : Bank) : Nat := k.activity.mgmtWork + (k.waiting.map Access.mgmtWork).sum

/-- How much there is in the part for which the management port's request in service waits: read accesses, program sequences,
the settings-store operation. -/
def mgmtWork (s : State) : Nat :=
  (s.bank .zero).mgmtWork + (s.bank .one).mgmtWork + (s.bank .two).mgmtWork + (s.bank .three).mgmtWork
    + (if s.op.isSome then 1 else 0)

/-- The program sequence that runs in a bank. -/
def Activity.sequence : Activity → Option ProgramSequence
  | .programming q _ => some q
  | _ => none

/-- A program sequence runs in a bank or waits for it. -/
def Bank.hasSequence (k : Bank) (q : ProgramSequence) : Prop :=
  k.activity.sequence = some q ∨ ∃ credit, Access.media (.program q) credit ∈ k.waiting

/-- What the take of a request found, and what still holds when its program sequence ends (R6, R8, R11, R14): the entry of
an OPEN is FREE, its name and generation are no entry's, and its extent is unowned; the entry of a PUBLISH is OPEN, that
of a RETIRE READY, that of a DISCARD OPEN, RETIRED or BAD. -/
def Issuer.Admitted (s : State) : Issuer → Prop
  | .openHeader i im => s.image i = none ∧ im.state = .opened ∧ im.bindings = 0
      ∧ (∃ name, im.name = some name ∧ ∀ j jm, s.image j = some jm → jm.name = some name → jm.generation ≠ im.generation)
      ∧ ∀ n, im.first ≤ n → n < im.first + im.count → (s.sector n).owner = none
  | .publishFields i _ _ => ∃ im, s.image i = some im ∧ im.state = .opened
  | .retiredMark i => ∃ im, s.image i = some im ∧ im.state = .ready
  | .discardMark i => ∃ im, s.image i = some im ∧ discardable im.state = true
  | .write => True
  | .publishedMark _ => True

/-- The entry a job works on stands in the state that names the job (R4, R92). -/
def JobWork.Held (s : State) (n : Nat) : JobWork → Prop
  | .verify i _ _ _ => ∃ im, s.image i = some im ∧ im.state = .verifying n
  | .discard i _ => ∃ im, s.image i = some im ∧ im.state = .discarding n
  | .erase _ => True

/-- A BOUND record agrees with its entry: the entry is READY or RETIRING, and the copies are the entry's (R30, R34). -/
def Aperture.Agrees (r : Aperture) (s : State) : Prop :=
  ∃ im, s.image r.entry = some im ∧ (im.state = .ready ∨ im.state = .retiring) ∧ im.name = some r.name
    ∧ im.generation = r.generation ∧ im.kind = r.kind ∧ im.first = r.first ∧ im.count = r.count
    ∧ (match im.published with
      | some (n, _) => n
      | none => 0) = r.payloadLength

/-- The laws of the directory, the binding tables and the sector map (R5, R12, R22, R30, R138), with what keeps them: jobs
and the program sequences of requests agree with the entries they work on, the management port has at most one request's
work in the part, and during the start-up scan no port is READY and what the scan has not reached is empty. -/
structure State.Lawful (s : State) : Prop where
  /-- No two entries hold the same name and generation (R5). -/
  names : ∀ i j im jm name, s.image i = some im → s.image j = some jm → im.name = some name → jm.name = some name →
    im.generation = jm.generation → i = j
  /-- A RETIRING entry is bound or being read (R12). -/
  retiring : ∀ i im, s.image i = some im → im.state = .retiring → im.bindings ≠ 0 ∨ im.reads ≠ 0
  /-- An entry's binding count is the number of BOUND records that carry its index (R22). -/
  counted : s.Counted
  /-- A BOUND record agrees with its entry (R30). -/
  bound : ∀ c ap r, s.aperture c ap = some r → r.revoked = false → r.Agrees s
  /-- A sector is owned by exactly the entry in whose extent it lies (R138). -/
  owners : ∀ n i, (s.sector n).owner = some i ↔ ∃ im, s.image i = some im ∧ im.first ≤ n ∧ n < im.first + im.count
  /-- Jobs agree with the entries they work on (R4). -/
  jobs : ∀ n j, s.job n = some j → j.work.Held s n
  /-- The management port waits for at most one thing, and only with a request in service (R162). -/
  service : mgmtWork s ≤ if s.mgmt.inService then 1 else 0
  /-- Program sequences agree with the entries they work on. -/
  sequences : ∀ b q, (s.bank b).hasSequence q → q.issuer.Admitted s
  /-- Before the end of the scan no port is READY and no request of the management port is in service (R157, R162). -/
  closed : s.scanStage ≠ .finished → (∀ p, (s.port p).state ≠ .ready) ∧ s.mgmt.inService = false
  /-- Before the scan has read the settings the directory is empty (R152, R153). -/
  unread : s.scanStage = .readingSettings → ∀ i, s.image i = none
  /-- While it scans, every entry lies below the next index and every extent below the position (R153, R155). -/
  scanned : s.scanStage = .scanning → (∀ i, s.nextIndex ≤ i → s.image i = none)
    ∧ ∀ i im, s.image i = some im → im.first + im.count ≤ s.scanPosition

/-! ## Requests at a port -/

/-- A request whose row is commanded arrives at this port, with this tag (log 1). -/
def requestOf : Instr → Option (Port × Byte × Request)
  | .identify p tag => some (p, tag, .identify)
  | .poll p tag => some (p, tag, .poll)
  | .entry tag i => some (.mgmt, tag, .entry i)
  | .find tag n => some (.mgmt, tag, .find n)
  | .sector tag n => some (.mgmt, tag, .sector n)
  | .jobs tag => some (.mgmt, tag, .jobs)
  | .openImage tag n f c k l => some (.mgmt, tag, .openImage n f c k l)
  | .write tag i o d => some (.mgmt, tag, .write i o d)
  | .publish tag i n c => some (.mgmt, tag, .publish i n c)
  | .abandon tag n => some (.mgmt, tag, .abandon n)
  | .retire tag i => some (.mgmt, tag, .retire i)
  | .revoke tag i => some (.mgmt, tag, .revoke i)
  | .discard tag i => some (.mgmt, tag, .discard i)
  | .erase tag n => some (.mgmt, tag, .erase n)
  | .clearAccessed tag i => some (.mgmt, tag, .clearAccessed i)
  | .read tag i o n => some (.mgmt, tag, .read i o n)
  | .readRaw tag n l f k => some (.mgmt, tag, .readRaw n l f k)
  | .setLevel tag p l => some (.mgmt, tag, .setLevel p l)
  | .protect tag g => some (.mgmt, tag, .protect g)
  | .unprotectAll tag => some (.mgmt, tag, .unprotectAll)
  | .bootSet tag p a b l => some (.mgmt, tag, .bootSet p a b l)
  | .bootClear tag => some (.mgmt, tag, .bootClear)
  | .bootLock tag => some (.mgmt, tag, .bootLock)
  | .bind c tag a n g => some (.client c, tag, .bind a n g)
  | .unbind c tag a => some (.client c, tag, .unbind a)
  | .describe c tag a => some (.client c, tag, .describe a)
  | .fetch c tag a o n t => some (.client c, tag, .fetch a o n t)
  | .powerOn => none
  | .resetAsserted => none
  | .resetReleased => none
  | .portResetAsserted _ => none
  | .portResetReleased _ => none
  | .wpChange _ => none
  | .requestFrameArrival _ _ => none
  | .responseFrameSent _ => none
  | .senseCompletion _ => none
  | .blankCheckCompletion _ => none
  | .programCompletion _ => none
  | .programTimeout _ => none
  | .readBackCompletion _ _ => none
  | .eraseCompletion _ => none
  | .eraseTimeout _ => none
  | .suspendCompletion _ => none
  | .lockoutExpiry _ => none
  | .settingsReadCompletion => none
  | .scanSenseCompletion => none
  | .settingsProgramCompletion _ => none
  | .settingsProgramTimeout => none
  | .settingsEraseCompletion => none
  | .settingsEraseTimeout => none

/-- A port attends: it takes the next request at its arrival (R164, R167). -/
structure State.Attends (s : State) (p : Port) : Prop where
  held : s.resetHeld = false
  ready : (s.port p).state = .ready
  queue : (s.port p).queue = []
  service : (s.port p).inService = false
  mark : (s.port p).readMark = false
  room : (s.port p).notBegun.length < 8

/-- The state with one request more answered at a port that attends: a response of its kind and tag is placed on the link
output, and nothing else changes (R165, R168). -/
def answered (p : Port) (tag : Byte) (r : Request) (st : Status) (results : List Byte) (s : State) : State :=
  s.setPort p ((s.port p).place { kind := r.code, tag, status := st, results })

/-- The state with a request in service at a port that attends, and nothing else changed (R162). -/
def serving (p : Port) (tag : Byte) (r : Request) (s : State) : State :=
  s.setPort p { s.port p with queue := [(tag, r)], inService := true }

/-! ## Quiet units -/

/-- Nothing is due, and a bank is free with nothing to do: no erase context, nothing waiting, no claim and no slot. -/
structure State.Quiet (s : State) (b : BankId) : Prop where
  due : due s = none
  free : (s.bank b).isFree = true
  erase : (s.bank b).erase = none
  waiting : (s.bank b).waiting = []
  claim : (s.bank b).claim = .none
  slot : s.holdsSlot (.bank b) = false

/-- A supply slot is free. -/
def State.slotFree (s : State) : Bool := s.slotA.isNone || s.slotB.isNone

/-- Give the first free slot to a claimant. -/
def giveSlot (c : Claimant) (s : State) : State :=
  { s with slotA := if s.slotA = none then some c else s.slotA, slotB := if s.slotA = none then s.slotB else some c }

/-- Nothing is due and the settings store holds no slot. -/
structure State.StoreQuiet (s : State) : Prop where
  due : due s = none
  op : s.op = none
  slot : s.holdsSlot .settings = false

end Sys2Proof.Machine
end

