-- ==== Sys2Proof/WellFormed.lean ====
section
/-! DEFINITION. Well-formed commands: each parameter fits the width in which its frame carries it (R178, R179). A value
that fits and is out of its rule's range is well-formed: the request's own rule refuses it when it is taken. -/

namespace Sys2Proof

/-- The number fits a field of `w` bytes (R178). -/
def fits (w n : Nat) : Bool := n < 256 ^ w

/-- The parameters of a request fit their fields (R178, R179). Names and CRCs are 32-bit by their type. A WRITE's index,
offset and data bytes together fit the two-byte parameter length of its frame (R177). -/
def Request.wf : Request → Bool
  | .identify => true
  | .poll => true
  | .entry i => fits 2 i
  | .find _ => true
  | .sector s => fits 1 s
  | .jobs => true
  | .openImage _ f c k l => fits 1 f && fits 2 c && fits 1 k && fits 1 l
  | .write i o d => fits 2 i && fits 4 o && fits 2 (6 + d.length)
  | .publish i n _ => fits 2 i && fits 4 n
  | .abandon j => fits 1 j
  | .retire i => fits 2 i
  | .revoke i => fits 2 i
  | .discard i => fits 2 i
  | .erase s => fits 1 s
  | .clearAccessed i => fits 2 i
  | .read i o n => fits 2 i && fits 4 o && fits 2 n
  | .readRaw s l f n => fits 1 s && fits 1 l && fits 1 f && fits 2 n
  | .setLevel p l => fits 1 p && fits 1 l
  | .protect g => fits 1 g
  | .unprotectAll => true
  | .bootSet p _ _ l => fits 1 p && fits 1 l
  | .bootClear => true
  | .bootLock => true
  | .bind a _ g => fits 1 a && fits 2 g
  | .unbind a => fits 1 a
  | .describe a => fits 1 a
  | .fetch a o n t => fits 1 a && fits 4 o && fits 1 n && fits 1 t

/-- What a command carries besides port, bank, pin and outcome operands: a request, the bytes of a frame, or neither. -/
inductive Carried where
  | nothing
  | request (r : Request)
  | frame (bytes : List Byte)
deriving DecidableEq, Repr

/-- What each command carries. -/
def Instr.carried : Instr → Carried
  | .powerOn => .nothing
  | .resetAsserted => .nothing
  | .resetReleased => .nothing
  | .portResetAsserted _ => .nothing
  | .portResetReleased _ => .nothing
  | .wpChange _ => .nothing
  | .requestFrameArrival _ bytes => .frame bytes
  | .responseFrameSent _ => .nothing
  | .identify _ _ => .request .identify
  | .poll _ _ => .request .poll
  | .entry _ i => .request (.entry i)
  | .find _ n => .request (.find n)
  | .sector _ s => .request (.sector s)
  | .jobs _ => .request .jobs
  | .openImage _ n f c k l => .request (.openImage n f c k l)
  | .write _ i o d => .request (.write i o d)
  | .publish _ i n c => .request (.publish i n c)
  | .abandon _ j => .request (.abandon j)
  | .retire _ i => .request (.retire i)
  | .revoke _ i => .request (.revoke i)
  | .discard _ i => .request (.discard i)
  | .erase _ s => .request (.erase s)
  | .clearAccessed _ i => .request (.clearAccessed i)
  | .read _ i o n => .request (.read i o n)
  | .readRaw _ s l f n => .request (.readRaw s l f n)
  | .setLevel _ p l => .request (.setLevel p l)
  | .protect _ g => .request (.protect g)
  | .unprotectAll _ => .request .unprotectAll
  | .bootSet _ p a b l => .request (.bootSet p a b l)
  | .bootClear _ => .request .bootClear
  | .bootLock _ => .request .bootLock
  | .bind _ _ a n g => .request (.bind a n g)
  | .unbind _ _ a => .request (.unbind a)
  | .describe _ _ a => .request (.describe a)
  | .fetch _ _ a o n t => .request (.fetch a o n t)
  | .senseCompletion _ => .nothing
  | .blankCheckCompletion _ => .nothing
  | .programCompletion _ => .nothing
  | .programTimeout _ => .nothing
  | .readBackCompletion _ _ => .nothing
  | .eraseCompletion _ => .nothing
  | .eraseTimeout _ => .nothing
  | .suspendCompletion _ => .nothing
  | .lockoutExpiry _ => .nothing
  | .settingsReadCompletion => .nothing
  | .scanSenseCompletion => .nothing
  | .settingsProgramCompletion _ => .nothing
  | .settingsProgramTimeout => .nothing
  | .settingsEraseCompletion => .nothing
  | .settingsEraseTimeout => .nothing

/-- A well-formed command: its request's parameters fit their fields, and an arrived frame holds at least one byte
(it arrives when its last byte has been received, R164). -/
def Instr.wf (i : Instr) : Bool :=
  match i.carried with
  | .nothing => true
  | .request r => r.wf
  | .frame bytes => !bytes.isEmpty

end Sys2Proof
end

