-- ==== Sys2Proof/Certificates/Slice0/Obligations.lean ====
section
/-! DEFINITION. The statements about the model, from the numbered rules of the manual. Where a statement says `conclude`, it
is what the event then makes due (R71, R89, R167); `answered`, `serving`, `State.Attends` and `State.Quiet` are defined in
Safety.lean. -/

open Sys2Proof Sys2Proof.Machine

/-! ## Steps, rows and frames -/

/-- A step takes the command at the front of the queue and runs it with the queue's rest. -/
def Obligations.StepRunsTheFrontCommand : Prop :=
  ∀ (c : Instr) (rest : List Instr) (s : State), step { s with pending := c :: rest } = exec c { s with pending := rest }

/-- The model's choice (log 3): on an empty queue one microsecond passes. Nothing happens while RESET is asserted;
otherwise the times of every unit grow: the activity of a program phase, the running time of an erase that is ERASING or
SUSPENDING with its lockout falling, the time since a suspend began, and the time of a RUNNING settings-store operation. The
limits they have reached take effect: a program phase fails at 2 ms, an erase times out at 2 s of running time, a suspend
completes at 20 microseconds (log 27), and a settings-store program fails at 2 ms and an erase at 400 ms; below them
nothing changes. What that makes due is done. -/
def Obligations.StepOnAnEmptyQueueLetsTimePass : Prop :=
  (∀ s : State, s.pending = [] →
    (s.resetHeld = true → step s = .next s)
    ∧ (s.resetHeld = false → ∃ t, step s = .next (conclude (storeLimit (Four.all.foldl bankLimit t)))
        ∧ t = { s with banks := t.banks, op := t.op }
        ∧ (∀ b e, (s.bank b).activity = .erasing → (s.bank b).erase = some e → e.suspended = false → t.bank b =
            { s.bank b with erase := some { e with runningTime := e.runningTime + 1, lockout := e.lockout - 1 } })
        ∧ (∀ b e n, (s.bank b).activity = .suspending n → (s.bank b).erase = some e → e.suspended = false → t.bank b =
            { s.bank b with
              activity := .suspending (n + 1)
              erase := some { e with runningTime := e.runningTime + 1, lockout := e.lockout - 1 } })
        ∧ (∀ b q n, (s.bank b).activity = .programming q (.program n) →
            t.bank b = { s.bank b with activity := .programming q (.program (n + 1)) })
        ∧ (∀ b, (s.bank b).activity ≠ .erasing → (∀ n, (s.bank b).activity ≠ .suspending n) →
            (∀ q n, (s.bank b).activity ≠ .programming q (.program n)) → t.bank b = s.bank b)
        ∧ (∀ o, s.op = some o → t.op = some (if o.running then { o with elapsed := o.elapsed + 1 } else o))
        ∧ (s.op = none → t.op = none)))
  ∧ (∀ (b : BankId) (s : State),
    (∀ q n, (s.bank b).activity = .programming q (.program n) →
      let a := q.sector * 65536 + q.line * 256 + q.first
      (n < 2000 → bankLimit s b = s)
      ∧ (2000 ≤ n → ∃ mem k,
        bankLimit s b = programEnded q.issuer .failed (quitBank b { s with mem := mem, freeCount := k })
        ∧ ∀ x, x < a ∨ a + q.values.length ≤ x → Memory.read mem x = Memory.read s.mem x))
    ∧ (∀ e, ((s.bank b).activity = .erasing ∨ ∃ n, (s.bank b).activity = .suspending n) → (s.bank b).erase = some e →
      e.suspended = false → 2000000 ≤ e.runningTime → ∃ mem k,
        bankLimit s b = eraseDone e.job e.sector .timeout ((releaseSlot (.bank b) ({ s with mem := mem, freeCount := k }.setBank b
          { s.bank b with activity := .idle, openLine := none, erase := none })).updSector e.sector
            fun r => { r with failed := true })
        ∧ ∀ x, x < e.sector * 65536 ∨ (e.sector + 1) * 65536 ≤ x → Memory.read mem x = Memory.read s.mem x)
    ∧ (∀ e, (s.bank b).erase = some e → e.suspended = false → e.runningTime < 2000000 →
      ((s.bank b).activity = .erasing → bankLimit s b = s)
      ∧ ∀ n, (s.bank b).activity = .suspending n →
        (n < 20 → bankLimit s b = s)
        ∧ (20 ≤ n → bankLimit s b = releaseSlot (.bank b) (s.setBank b { s.bank b with
            activity := .idle, openLine := none, erase := some { e with suspended := true, served := false } })))
    ∧ ((s.bank b).activity ≠ .erasing → (∀ n, (s.bank b).activity ≠ .suspending n) →
      (∀ q n, (s.bank b).activity ≠ .programming q (.program n)) → bankLimit s b = s))
  ∧ ∀ s : State,
    (storePowered s = false → storeLimit s = s)
    ∧ ∀ o, s.op = some o → o.running = true →
      let limit := if o.work.isErase then 400000 else 2000
      (o.elapsed < limit → storeLimit s = s)
      ∧ (limit ≤ o.elapsed → ∃ row boot k,
        storeLimit s = respond .mgmt (if o.work.isErase then .eraseFailed else .programFailed) []
          (o.work.refresh (releaseSlot .settings { s with op := none, row := row, boot := boot, freeCount := k }))
        ∧ o.work.Spares s { s with row := row, boot := boot })

/-- Every command answers a next state that keeps the queue of waiting commands: nothing stops the part. -/
def Obligations.EveryCommandGoesOnAndKeepsTheQueue : Prop :=
  ∀ (c : Instr) (s : State), ∃ t, exec c s = .next t ∧ t.pending = s.pending

/-- The model's choice (log 1): the row of a request does what the arrival of that request's frame does, at a port that
accepts its kind. -/
def Obligations.RequestRowIsTheArrivalOfItsFrame : Prop :=
  ∀ (c : Instr) (p : Port) (tag : Byte) (r : Request) (s : State), requestOf c = some (p, tag, r) → r.wf = true →
    accepts p r.code = true ∧ exec c s = exec (.requestFrameArrival p (requestFrame tag r)) s

/-- A request that arrives at a port that does not take it at once: ignored, answered STARTING or FULL, or queued. -/
def Obligations.RequestArrivesAtAPortThatDoesNotTake : Prop :=
  ∀ (c : Instr) (p : Port) (tag : Byte) (r : Request) (s : State), requestOf c = some (p, tag, r) →
    (s.resetHeld = true ∨ (s.port p).state = .resetting → exec c s = .next s)
    ∧ (s.resetHeld = false → (s.port p).state = .starting →
        exec c s = .next (s.setPort p (if (s.port p).notBegun.length < 4
          then (s.port p).place { kind := r.code, tag, status := .starting, results := [] } else s.port p)))
    ∧ (s.resetHeld = false → (s.port p).state = .ready → 4 ≤ (s.port p).queue.length →
        exec c s = .next (s.setPort p (if (s.port p).notBegun.length < 4
          then (s.port p).place { kind := r.code, tag, status := .full, results := [] } else s.port p)))
    ∧ (s.resetHeld = false → (s.port p).state = .ready → (s.port p).queue.length < 4 →
        ((s.port p).inService = true ∨ (s.port p).readMark = true ∨ 8 ≤ (s.port p).notBegun.length) →
        exec c s = .next (s.setPort p { s.port p with queue := (s.port p).queue ++ [(tag, r)] }))

/-- The checks of an arriving frame, in order; a frame that passes them joins its queue, and its port takes while it can. A
frame too short to hold kind and tag is answered FRAME_ERROR; what it echoes in their place is the model's choice
(log 16). -/
def Obligations.FrameIsCheckedInOrder : Prop :=
  (∀ (p : Port) (kind tag : Byte) (rest : List Byte) (s : State),
    let bytes := kind :: tag :: rest
    let u := s.port p
    let atOnce := fun st : Status => s.setPort p
      (if u.notBegun.length < 4 then u.place { kind, tag, status := st, results := [] } else u)
    exec (.requestFrameArrival p bytes) s = .next (
      if s.resetHeld = true ∨ u.state = .resetting then s
      else if ¬ (bytes.length = 5 + unbe (rest.take 2) ∧ bytes.getLast? = some (crc8 bytes.dropLast)) then atOnce .frameError
      else if u.state = .starting then atOnce .starting
      else if accepts p kind = false then atOnce .unknownRequest
      else match decodeRequest kind (rest.drop 2).dropLast with
        | none => atOnce .frameError
        | some r =>
          if u.queue.length < 4 then takesAt p (s.setPort p { u with queue := u.queue ++ [(tag, r)] }) else atOnce .full))
  ∧ ∀ (p : Port) (bytes : List Byte) (s : State), bytes.length < 2 →
    (s.resetHeld = true ∨ (s.port p).state = .resetting → exec (.requestFrameArrival p bytes) s = .next s)
    ∧ (s.resetHeld = false → (s.port p).state ≠ .resetting → ∃ kind tag n,
        exec (.requestFrameArrival p bytes) s = .next { s.setPort p (if (s.port p).notBegun.length < 4
          then (s.port p).place { kind, tag, status := .frameError, results := [] } else s.port p) with freeCount := n })

/-- The end of the sending of a response frame: the next frame begins, and the port takes where it can. That a link that is
sending nothing stays as it is, is the model's choice (log 2). A port can take exactly when the five conditions hold: it is
READY, a request is queued, none is in service, no read mark, and fewer than 8 frames not yet begun. A port that can take
takes the head request, which is then in service, and goes on until it cannot; at the end of an event every port takes while
it can, in ascending order (log 12). -/
def Obligations.ResponseFrameSentBeginsTheNext : Prop :=
  (∀ (p : Port) (s : State),
    ((s.port p).sending = none → exec (.responseFrameSent p) s = .next s)
    ∧ (∀ f, (s.port p).sending = some f → exec (.responseFrameSent p) s = .next (takesAt p (s.setPort p
        { s.port p with sending := (s.port p).notBegun.head?, notBegun := (s.port p).notBegun.tail }))))
  ∧ (∀ u : PortUnit, u.canTake = true ↔
      u.state = .ready ∧ u.queue ≠ [] ∧ u.inService = false ∧ u.readMark = false ∧ u.notBegun.length < 8)
  ∧ (∀ (p : Port) (s : State),
    let taken := fun (p : Port) (r : Request) => takeRequest p r (s.setPort p { s.port p with inService := true })
    ((s.port p).canTake = false → takesAt p s = s)
    ∧ (∀ tag r rest, (s.port p).canTake = true → (s.port p).queue = (tag, r) :: rest →
        takesAt p s = takesAt p (taken p r))
    ∧ ((takesAt p s).port p).canTake = false
    ∧ ((∀ q, (s.port q).canTake = false) → takesAll s = s)
    ∧ (∀ tag r rest, (s.port p).canTake = true → (∀ q : Port, q.number < p.number → (s.port q).canTake = false) →
        (s.port p).queue = (tag, r) :: rest → takesAll s = takesAll (taken p r))
    ∧ ((takesAll s).port p).canTake = false
    ∧ conclude s = takesAll (settle s))

/-! ## Encodings -/

/-- The frame of every well-formed request reads back as that request: the checks of the frame pass, and its kind, tag and
parameters give the request with every operand. -/
def Obligations.RequestFrameReadsBack : Prop :=
  ∀ (tag : Byte) (r : Request), r.wf = true →
    frameCorrect (requestFrame tag r) = true
    ∧ frameKind (requestFrame tag r) = r.code ∧ frameTag (requestFrame tag r) = tag
    ∧ decodeRequest (frameKind (requestFrame tag r)) (frameParams (requestFrame tag r)) = some r

/-- The header line that an OPEN writes reads back at a scan as the image it was opened as; a line of 256 bytes is a valid
header of its sector exactly when the seven conditions hold of its bytes, and its image then takes the fields, payload
length and expected CRC present exactly when neither of their fields is blank; the three marks of a header line decide the
state the scan gives the image, by the first row that applies. The boot entry that a BOOT_SET writes reads back as the VALID
copy it asked for; eleven bytes read BLANK when all are 0xFF, VALID with a right check, a primary name other than 0 and a
level 0 to 3, and INVALID otherwise. -/
def Obligations.StoredRecordsReadBack : Prop :=
  (∀ (name : Word32) (generation first count : Nat) (kind : Kind) (level : Nat),
    name ≠ 0 → 1 ≤ generation → generation ≤ 65535 → 1 ≤ count → count ≤ 256 → first + count - 1 ≤ 255 → level ≤ 3 →
    (headerLine name generation first kind count level).length = 256
    ∧ headerImage first (headerLine name generation first kind count level)
        = some { state := .opened, name := some name, generation, first, count, kind, level })
  ∧ (∀ (line : List Byte) (n : Nat), line.length = 256 →
    let bytes := fun off w : Nat => (line.drop off).take w
    let value := fun off w : Nat => unbe (bytes off w)
    let blank := bytes 32 4 = [0xFF, 0xFF, 0xFF, 0xFF] ∨ bytes 36 4 = [0xFF, 0xFF, 0xFF, 0xFF]
    (headerImage n line ≠ none ↔
      bytes 0 4 = [0x4E, 0x55, 0x49, 0xD7]
      ∧ value 16 2 = (crc16 (bytes 4 11)).toNat
      ∧ (value 4 4 ≠ 0 ∧ 1 ≤ value 8 2 ∧ value 8 2 ≤ 65535)
      ∧ value 10 1 = n
      ∧ (1 ≤ value 12 2 ∧ value 12 2 ≤ 256 ∧ n + value 12 2 - 1 ≤ 255)
      ∧ ((value 11 1 = 1 ∨ value 11 1 = 2 ∨ value 11 1 = 3) ∧ value 14 1 ≤ 3)
      ∧ (¬ blank → 1 ≤ value 32 4 ∧ value 32 4 ≤ value 12 2 * 65536 - 256))
    ∧ ∀ im, headerImage n line = some im → ∃ kind published,
      im = { state := markedState line, name := some (BitVec.ofNat 32 (value 4 4)), generation := value 8 2, first := n
             count := value 12 2, kind, level := value 14 1, published, bindings := 0, reads := 0, accessed := false }
      ∧ kind = (if value 11 1 = 1 then Kind.exec else if value 11 1 = 2 then .code else .data)
      ∧ (blank → published = none) ∧ (¬ blank → published = some (value 32 4, BitVec.ofNat 32 (value 36 4))))
  ∧ (∀ line : List Byte, line.length = 256 →
    let published := line.getD 64 0
    let retired := line.getD 65 0
    let discard := line.getD 66 0
    (discard ≠ 0xFF → markedState line = .bad .discardInterrupted)
    ∧ (discard = 0xFF → ((published ≠ 0x00 ∧ published ≠ 0xFF) ∨ (retired ≠ 0x00 ∧ retired ≠ 0xFF)) →
        markedState line = .bad .tornMark)
    ∧ (discard = 0xFF → (published = 0x00 ∨ published = 0xFF) → retired = 0x00 → markedState line = .retired)
    ∧ (discard = 0xFF → published = 0x00 → retired = 0xFF → markedState line = .ready)
    ∧ (discard = 0xFF → published = 0xFF → retired = 0xFF → markedState line = .opened))
  ∧ ((∀ (primary fallback : Word32) (level : Nat), primary ≠ 0 → level ≤ 3 →
    (bootEntryBytes primary fallback level).length = 11
    ∧ bootForm (bootEntryBytes primary fallback level) = .valid primary fallback level)
  ∧ bootForm (List.replicate 11 0xFF) = .blank)
  ∧ ∀ bytes : List Byte, bytes.length = 11 →
    let value := fun off w : Nat => unbe ((bytes.drop off).take w)
    let right := value 9 2 = (crc16 (bytes.take 9)).toNat ∧ value 0 4 ≠ 0 ∧ value 8 1 ≤ 3
    (bytes = List.replicate 11 0xFF → bootForm bytes = .blank)
    ∧ (right → bootForm bytes = .valid (BitVec.ofNat 32 (value 0 4)) (BitVec.ofNat 32 (value 4 4)) (value 8 1))
    ∧ (bytes ≠ List.replicate 11 0xFF → ¬ right → bootForm bytes = .invalid)

/-- The three CRCs have their check values over the ASCII bytes "123456789". -/
def Obligations.CrcCheckValues : Prop :=
  let bytes : List Byte := [0x31, 0x32, 0x33, 0x34, 0x35, 0x36, 0x37, 0x38, 0x39]
  crc8 bytes = 0xF4 ∧ crc16 bytes = 0x29B1 ∧ crc32Finish (crc32Feed crc32Init bytes) = 0xCBF43926

/-! ## Requests that only report, or take a cause or a flag with the report -/

/-- IDENTIFY at a port that attends answers the identity of the part and changes nothing else. The widths of the fields
are the model's choice (log 15), and the revision is a free constant (log 9). -/
def Obligations.IdentifyAnswersTheIdentity : Prop :=
  ∀ (p : Port) (tag : Byte) (s : State), s.Attends p →
    exec (.identify p tag) s = .next (answered p tag .identify .ok
      ([0x5D, 0x17, 0x44, 0x08, Config.revision, BitVec.ofNat 8 p.number, 4, 64, 1, 0, 1, 0, 1, 0, 4, 8, 4, 8, 2]
        ++ [if s.lockInForce then 1 else 0]) s)

/-- POLL at a port that attends removes the cause of highest priority and answers it with the causes still in the set; at
an empty set it answers NONE and changes nothing but the link output. A cause raised after the take is in the set again,
and raising or removing one cause leaves the others. The attention output is asserted exactly while the set holds a cause, so
that a POLL of the last cause releases it. -/
def Obligations.PollTakesTheHighestCause : Prop :=
  ∀ (p : Port) (tag : Byte) (s : State), s.Attends p →
    (∀ k : Cause, k ∈ (s.port p).causes.list ↔ (s.port p).causes.has k = true)
    ∧ (s.port p).causes.list.Sublist [.jobFailed, .jobDone, .clientReset, .restarted, .revoked, .bootMissing, .newer]
    ∧ ((s.port p).causes.list = [] → exec (.poll p tag) s = .next (answered p tag .poll .ok [0x00, 0x00, 0x00] s))
    ∧ (∀ k rest, (s.port p).causes.list = k :: rest →
        ((s.port p).causes.put k false).list = rest
        ∧ exec (.poll p tag) s = .next (answered p tag .poll .ok (k.code :: (be 2 rest.length ++ rest.map Cause.code))
            (s.setPort p { s.port p with causes := (s.port p).causes.put k false })))
    ∧ (∀ (u : CauseSet) (k j : Cause) (v : Bool), (u.put k v).has j = if j = k then v else u.has j)
    ∧ (∀ u : PortUnit, u.attention = true ↔ ∃ k, u.causes.has k = true)
    ∧ ∃ t, exec (.poll p tag) s = .next t
      ∧ ((t.port p).attention = true ↔ ∃ k j : Cause, k ≠ j ∧ (s.port p).causes.has k = true ∧ (s.port p).causes.has j = true)

/-- At a management port that attends: ENTRY answers the report of the entry in every state; FIND lists every non-FREE entry of
the name once, in ascending order of generation; SECTOR and JOBS answer their reports. None of them changes anything but the
link output, and each refuses RANGE what is out of its range. The widths of the fields are the model's choice (log 15). -/
def Obligations.EntryFindSectorAndJobsReport : Prop :=
  ((∀ (tag : Byte) (i : Nat) (s : State), s.Attends .mgmt →
    exec (.entry tag i) s = .next (if 1 ≤ i ∧ i ≤ 256
      then answered .mgmt tag (.entry i) .ok (entryReport i (s.image i)) s else answered .mgmt tag (.entry i) .range [] s))
  ∧ (∀ i, entryReport i none = be 2 i ++ [0x00] ++ (0x00 :: blanks 4) ++ (0x00 :: blanks 2) ++ (0x00 :: blanks 1)
      ++ (0x00 :: blanks 2) ++ (0x00 :: blanks 1) ++ (0x00 :: blanks 1) ++ (0x00 :: blanks 4) ++ (0x00 :: blanks 4)
      ++ [0, 0, 0] ++ (0x00 :: blanks 1) ++ [0]))
  ∧ (∀ (tag : Byte) (name : Word32) (s : State), s.Attends .mgmt → Table.wf none s.dir = true →
    (name = 0 → exec (.find tag name) s = .next (answered .mgmt tag (.find name) .range [] s))
    ∧ (name ≠ 0 → ∃ l : List (Nat × Image),
        exec (.find tag name) s = .next (answered .mgmt tag (.find name) .ok (be 2 l.length ++ l.flatMap fun e =>
          be 2 e.1 ++ be 2 e.2.generation ++ [stateCode (some e.2)] ++ Machine.optional 1 (e.2.badReason.map BadReason.code)) s)
        ∧ l.Pairwise (fun e f => e.2.generation ≤ f.2.generation) ∧ l.Nodup
        ∧ ∀ i im, (i, im) ∈ l ↔ s.image i = some im ∧ im.name = some name))
  ∧ (∀ (tag : Byte) (s : State), s.Attends .mgmt →
    (∀ n, exec (.sector tag n) s = .next (if n ≤ 255
      then answered .mgmt tag (.sector n) .ok
        (be 1 n ++ be 1 (n / 64) ++ be 1 (n / 4) ++ be 2 ((s.sector n).owner.getD 0)
          ++ [flagCode (s.sector n).failed] ++ be 2 ((s.sector n).target.getD 0)
          ++ [flagCode (s.rowCopy.getLsbD (n / 4)), flagCode s.wpHigh, flagCode (s.isProtected n),
              match (s.bank (Four.nth (n / 64))).erase with
              | some e => if e.sector = n then (if e.suspended then 0x02 else 0x01) else 0x00
              | none => 0x00]) s
      else answered .mgmt tag (.sector n) .range [] s))
    ∧ exec (.jobs tag) s = .next (answered .mgmt tag .jobs .ok
        (be 2 s.jobs.length ++ s.jobs.flatMap jobItem
          ++ (be 2 (heldOutcomes s).length ++ (heldOutcomes s).flatMap outcomeItem)) s)
    ∧ (∀ n o, (n, o) ∈ heldOutcomes s ↔ 1 ≤ n ∧ n ≤ 8 ∧ s.lastOutcome n = some o))

/-- At a management port that attends: CLEAR_ACCESSED answers the accessed flag and clears it, refused RANGE for an index
outside 1 to 256 and WRONG_STATE for a FREE entry; SET_LEVEL sets the named client port's level, whatever that port's state,
and answers the level it held, refused RANGE for a port outside 1 to 4 or a level above 3. -/
def Obligations.ClearAccessedAndSetLevel : Prop :=
  (∀ (tag : Byte) (i : Nat) (s : State), s.Attends .mgmt →
    let r := Request.clearAccessed i
    (¬ (1 ≤ i ∧ i ≤ 256) → exec (.clearAccessed tag i) s = .next (answered .mgmt tag r .range [] s))
    ∧ (1 ≤ i ∧ i ≤ 256 → s.image i = none →
        exec (.clearAccessed tag i) s = .next (answered .mgmt tag r .wrongState [] s))
    ∧ (∀ im, 1 ≤ i ∧ i ≤ 256 → s.image i = some im →
        exec (.clearAccessed tag i) s = .next (answered .mgmt tag r .ok [if im.accessed then 1 else 0]
          (s.setImage i (some { im with accessed := false })))))
  ∧ (∀ (tag : Byte) (n level : Nat) (s : State), s.Attends .mgmt →
    let r := Request.setLevel n level
    (∀ c : ClientId, n = c.pos + 1 → level ≤ 3 →
      exec (.setLevel tag n level) s = .next (answered .mgmt tag r .ok (be 1 (s.client c).level)
        (s.setClient c { s.client c with level })))
    ∧ (¬ (1 ≤ n ∧ n ≤ 4 ∧ level ≤ 3) → exec (.setLevel tag n level) s = .next (answered .mgmt tag r .range [] s)))

/-! ## Names and bindings -/

/-- Newest resolution: the READY entry of the name with the greatest generation, and none exactly when no READY entry
holds the name; none for name 0 when no entry holds it; the only one of its generation where no two entries share name
and generation; DESCRIBE reports the generation found, or 0. -/
def Obligations.NewestResolutionFindsTheGreatestReady : Prop :=
  ∀ (s : State) (n : Word32), Table.wf none s.dir = true →
    (∀ i im, newest s n = some (i, im) → s.image i = some im ∧ im.name = some n ∧ im.state = .ready
      ∧ ∀ j jm, s.image j = some jm → jm.name = some n → jm.state = .ready → jm.generation ≤ im.generation)
    ∧ (newest s n = none ↔ ∀ j jm, s.image j = some jm → jm.name = some n → jm.state ≠ .ready)
    ∧ ((∀ i im, s.image i = some im → im.name ≠ some 0) → newest s 0 = none)
    ∧ ((∀ i j im jm, s.image i = some im → s.image j = some jm → im.name = some n → jm.name = some n →
          im.generation = jm.generation → i = j) →
        ∀ i im j jm, newest s n = some (i, im) → s.image j = some jm → jm.name = some n → jm.state = .ready →
          jm.generation = im.generation → j = i)
    ∧ (∀ c tag ap r, s.Attends (.client c) → ap ≤ 7 → s.aperture c ap = some r → r.name = n → ∃ front,
        exec (.describe c tag ap) s = .next (answered (.client c) tag (.describe ap) .ok
          (front ++ be 2 (match newest s n with
            | some e => e.2.generation
            | none => 0) ++ be 1 (s.client c).level) s))

/-- Pinned resolution: the READY entry of that name and generation, and none when there is none, older generations found
like any other; a BIND resolves newest for generation 0 and pinned for every other. -/
def Obligations.PinnedResolutionFindsThatGeneration : Prop :=
  ∀ (s : State) (n : Word32) (g : Nat), Table.wf none s.dir = true →
    (∀ i im, pinned s n g = some (i, im) →
      s.image i = some im ∧ im.name = some n ∧ im.generation = g ∧ im.state = .ready)
    ∧ (pinned s n g = none ↔
        ∀ i im, s.image i = some im → im.name = some n → im.generation = g → im.state ≠ .ready)
    ∧ resolve s n 0 = newest s n ∧ (g ≠ 0 → resolve s n g = pinned s n g)
    ∧ (∀ c ap tag, s.Attends (.client c) → ap ≤ 7 → s.aperture c ap = none → resolve s n g = none →
        exec (.bind c tag ap n g) s = .next (answered (.client c) tag (.bind ap n g) .noEntry [] s))

/-- BIND at a client port that attends: its four checks in order, and the binding it makes. -/
def Obligations.BindChecksAndBinds : Prop :=
  ∀ (c : ClientId) (tag : Byte) (ap : Nat) (name : Word32) (g : Nat) (s : State), s.Attends (.client c) →
    let answer := answered (.client c) tag (.bind ap name g)
    exec (.bind c tag ap name g) s = .next (
      if 7 < ap then answer .range [] s
      else if s.aperture c ap ≠ none then answer .apertureBusy [] s
      else match resolve s name g with
        | none => answer .noEntry [] s
        | some (i, im) =>
          if im.level < (s.client c).level then answer .privilege [] s
          else
            let payload := match im.published with
              | some (n, _) => n
              | none => 0
            answer .ok (be 2 i ++ be 2 im.generation ++ be 1 im.kind.number ++ be 4 payload)
              ((s.setClient c { s.client c with apertures := Table.put none (s.client c).apertures ap (some
                  { revoked := false, entry := i, name := im.name.getD 0, generation := im.generation, kind := im.kind
                    payloadLength := payload, first := im.first, count := im.count, boot := false }) }).updImage i
                fun m => { m with bindings := m.bindings + 1 }))

/-- At a client port that attends: UNBIND is refused RANGE or UNBOUND, and otherwise empties the record; a BOUND record
gives up its count, and its entry is examined; a REVOKED record changes no count. DESCRIBE answers the report of the
aperture and changes nothing but the link output, refused RANGE above 7. The places of DESCRIBE's result fields are the
order of its rule (log 15). -/
def Obligations.UnbindAndDescribe : Prop :=
  (∀ (c : ClientId) (tag : Byte) (ap : Nat) (s : State), s.Attends (.client c) →
    let answer := answered (.client c) tag (.unbind ap)
    let emptied := s.setClient c { s.client c with apertures := Table.put none (s.client c).apertures ap none }
    (7 < ap → exec (.unbind c tag ap) s = .next (answer .range [] s))
    ∧ (ap ≤ 7 → s.aperture c ap = none → exec (.unbind c tag ap) s = .next (answer .unbound [] s))
    ∧ (∀ r, ap ≤ 7 → s.aperture c ap = some r → r.revoked = false →
        exec (.unbind c tag ap) s = .next (answer .ok (be 2 r.entry ++ be 2 r.generation ++ [0x01])
          (emptied.updImage r.entry fun im =>
            let im' := { im with bindings := im.bindings - 1 }
            if im.state = .retiring ∧ im'.bindings = 0 ∧ im.reads = 0 then { im' with state := .retired } else im')))
    ∧ (∀ r, ap ≤ 7 → s.aperture c ap = some r → r.revoked = true →
        exec (.unbind c tag ap) s = .next (answer .ok (be 2 r.entry ++ be 2 r.generation ++ [0x02]) emptied)))
  ∧ (∀ (c : ClientId) (tag : Byte) (ap : Nat) (s : State), s.Attends (.client c) →
    let answer := answered (.client c) tag (.describe ap)
    let level := be 1 (s.client c).level
    (7 < ap → exec (.describe c tag ap) s = .next (answer .range [] s))
    ∧ (ap ≤ 7 → s.aperture c ap = none → exec (.describe c tag ap) s = .next (answer .ok
        ([0x00] ++ (0x00 :: blanks 2) ++ (0x00 :: blanks 4) ++ (0x00 :: blanks 2) ++ (0x00 :: blanks 1) ++ (0x00 :: blanks 4)
          ++ (0x00 :: blanks 1) ++ (0x00 :: blanks 2) ++ [0x00] ++ [0x00, 0x00] ++ level) s))
    ∧ (∀ r, ap ≤ 7 → s.aperture c ap = some r → exec (.describe c tag ap) s = .next (answer .ok
        ([if r.revoked then 0x02 else 0x01] ++ (0x01 :: be 2 r.entry) ++ (0x01 :: be 4 r.name.toNat)
          ++ (0x01 :: be 2 r.generation) ++ (0x01 :: be 1 r.kind.number) ++ (0x01 :: be 4 r.payloadLength)
          ++ (0x01 :: be 1 r.first) ++ (0x01 :: be 2 r.count) ++ [if r.boot then 0x01 else 0x00]
          ++ be 2 (newestGeneration s (some r)) ++ level) s)))

/-- BIND, UNBIND and REVOKE at ports that attend keep the law of the counts: every entry's binding count is the number of
BOUND records that carry its index. And every step keeps it, with the other laws of the directory and of what refers to it
(State.Lawful): no two entries share name and generation, a RETIRING entry is bound or read, a BOUND record agrees with its
entry, a sector is owned exactly by the entry in whose extent it lies, and jobs and program sequences agree with the
entries they work on. -/
def Obligations.BindingCountsStayTheNumberOfBoundRecords : Prop :=
  (∀ (s t : State), s.Canonical → s.Counted →
    (∀ c tag ap name g, s.Attends (.client c) → exec (.bind c tag ap name g) s = .next t → t.Counted)
    ∧ (∀ c tag ap, s.Attends (.client c) → exec (.unbind c tag ap) s = .next t → t.Counted)
    ∧ (∀ tag i, s.Attends .mgmt → exec (.revoke tag i) s = .next t → t.Counted))
  ∧ ∀ s t : State, s.Canonical → s.PortsLegal → s.Lawful → step s = .next t → t.Lawful

/-! ## Reads -/

/-- FETCH at a client port that attends: its checks in order; a FETCH that passes them has a read access of the line of its
payload offset, counted in its entry, with the port's read mark set; what its bank then grants follows. The line of a
payload offset lies in the extent and is never the header line. -/
def Obligations.FetchChecksAndReads : Prop :=
  (∀ (c : ClientId) (tag : Byte) (ap offset length access : Nat) (s : State), s.Attends (.client c) →
    let req := Request.fetch ap offset length access
    let refused := fun st : Status => answered (.client c) tag req st [] s
    exec (.fetch c tag ap offset length access) s = .next (
      if ¬ (ap ≤ 7 ∧ (access = 1 ∨ access = 2)) then refused .range
      else match s.aperture c ap with
        | none => refused .unbound
        | some r =>
          if r.revoked then refused .revoked
          else if ¬ (offset % 4 = 0 ∧ length % 4 = 0 ∧ 4 ≤ length ∧ length ≤ 64) then refused .align
          else if r.payloadLength < offset + length then refused .limit
          else if 256 < offset % 256 + length then refused .align
          else if (r.kind = .exec ∧ access = 2) ∨ (r.kind = .data ∧ access = 1) then refused .accessType
          else
            let sector := r.first + (256 + offset) / 65536
            settle (join (Four.nth (sector / 64)) (.read { port := .client c, request := .fetch, entry := some r.entry, sector
                                                           line := (256 + offset) % 65536 / 256
                                                           first := (256 + offset) % 256, length })
              ((serving (.client c) tag req (s.updImage r.entry fun im => { im with reads := im.reads + 1 })).setPort
                (.client c) { s.port (.client c) with queue := [(tag, req)], inService := true, readMark := true }))))
  ∧ (∀ f c p : Nat, 1 ≤ c → p < capacity c →
    lineAddress (payloadSector f p) (payloadLine p) (payloadByte p) = f * 65536 + (256 + p)
    ∧ f ≤ payloadSector f p ∧ payloadSector f p ≤ f + c - 1
    ∧ payloadLine p ≤ 255 ∧ payloadByte p = p % 256
    ∧ ¬ (payloadSector f p = f ∧ payloadLine p = 0))

/-- READ and READ_RAW at a management port that attends: their checks in order, and the read access each creates: of a line
of an entry, counted in it, or of a line of a sector, counted in none. That a READ's offset 0 is line 1 in every entry, a
nameless one too, follows the rule of READ and not that of the entries (log 28). -/
def Obligations.ReadAndReadRawCheckAndRead : Prop :=
  (∀ (tag : Byte) (i offset length : Nat) (s : State), s.Attends .mgmt →
    let req := Request.read i offset length
    let refused := fun st : Status => answered .mgmt tag req st [] s
    exec (.read tag i offset length) s = .next (
      if ¬ (1 ≤ i ∧ i ≤ 256) then refused .range
      else match s.image i with
        | none => refused .wrongState
        | some im =>
          if (match im.state with | .discarding _ => true | _ => false) then refused .wrongState
          else if ¬ (1 ≤ length ∧ length ≤ 256) then refused .align
          else if (match im.published with
              | some (n, _) => n
              | none => capacity im.count) < offset + length then refused .limit
          else if 256 < offset % 256 + length then refused .align
          else
            let sector := im.first + (256 + offset) / 65536
            settle (join (Four.nth (sector / 64)) (.read { port := .mgmt, request := .read, entry := some i, sector
                                                           line := (256 + offset) % 65536 / 256
                                                           first := (256 + offset) % 256, length })
              { s.setImage i (some { im with reads := im.reads + 1 }) with
                mgmt := { s.mgmt with queue := [(tag, req)], inService := true, readMark := true } })))
  ∧ (∀ (tag : Byte) (sector line first length : Nat) (s : State), s.Attends .mgmt →
    let req := Request.readRaw sector line first length
    let refused := fun st : Status => answered .mgmt tag req st [] s
    exec (.readRaw tag sector line first length) s = .next (
      if ¬ (sector ≤ 255 ∧ line ≤ 255 ∧ first ≤ 255) then refused .range
      else if ¬ (1 ≤ length ∧ length ≤ 256 ∧ first + length ≤ 256) then refused .align
      else if ∃ e, (s.bank (Four.nth (sector / 64))).erase = some e ∧ e.sector = sector then refused .busySector
      else settle (join (Four.nth (sector / 64))
        (.read { port := .mgmt, request := .readRaw, entry := none, sector, line, first, length })
        { s with mgmt := { s.mgmt with queue := [(tag, req)], inService := true, readMark := true } })))

/-- A read access that joins a quiet bank is granted at once: a line hit answers the bytes of the array, lowers its entry's
reads, sets the accessed flag of a FETCH and clears the read mark; otherwise a sense of its line begins. At a busy bank it
waits; where an erase is RUNNING, its lockout over, a suspend begins, and where the lockout remains, none does. -/
def Obligations.ReadAccessJoinsItsBank : Prop :=
  (∀ (b : BankId) (a : ReadAccess) (s : State), s.Quiet b → a.dropped = false →
    ((s.bank b).openLine = some (a.sector, a.line) → settle (join b (.read a) s) =
      respond a.port .ok (Memory.readN s.mem (a.sector * 65536 + a.line * 256 + a.first) a.length)
        (setReadMark a.port false (match a.entry with
          | some i => lowerReads i (if a.request = .fetch then s.updImage i fun im => { im with accessed := true } else s)
          | none => s)))
    ∧ ((s.bank b).openLine ≠ some (a.sector, a.line) → settle (join b (.read a) s) =
      s.setBank b { s.bank b with activity := .sensing (.read a) }))
  ∧ (∀ (b : BankId) (a : ReadAccess) (s : State), due s = none → (s.bank b).isFree = false →
    let waits := { s.bank b with waiting := (s.bank b).waiting ++ [Access.read a] }
    (∀ e, (s.bank b).activity = .erasing → (s.bank b).erase = some e → e.lockout = 0 →
      settle (join b (.read a) s) = s.setBank b { waits with activity := .suspending 0 })
    ∧ (∀ e, (s.bank b).activity = .erasing → (s.bank b).erase = some e → e.lockout ≠ 0 →
      settle (join b (.read a) s) = s.setBank b waits)
    ∧ ((s.bank b).activity ≠ .erasing → settle (join b (.read a) s) = s.setBank b waits))

/-! ## Images -/

/-- OPEN at a management port that attends: its checks in order, and the header program sequence it hands to the bank of the
first sector. It chooses the lowest FREE index and the generation above every one its name holds, and its extent check names
the lowest sector that fails, with the first condition it fails. -/
def Obligations.OpenChecksAndProgramsItsHeader : Prop :=
  (∀ (tag : Byte) (name : Word32) (first count kind level : Nat) (s : State), s.Attends .mgmt →
    let req := Request.openImage name first count kind level
    let refused := fun (st : Status) (rs : List Byte) => answered .mgmt tag req st rs s
    exec (.openImage tag name first count kind level) s = .next (
      if ¬ (name ≠ 0 ∧ first ≤ 255 ∧ 1 ≤ count ∧ count ≤ 256 ∧ first + count - 1 ≤ 255 ∧ 1 ≤ kind ∧ kind ≤ 3 ∧ level ≤ 3)
      then refused .range []
      else match lowestFree s with
        | none => refused .directoryFull []
        | some i =>
          if 65535 ≤ greatestGeneration s name then refused .generationExhausted []
          else match extentRefusal s first count with
            | some (m, st) => refused st (be 1 m)
            | none =>
              let generation := greatestGeneration s name + 1
              let k := if kind = 1 then Kind.exec else if kind = 2 then Kind.code else Kind.data
              settle (joinMedia first (.program
                { issuer := .openHeader i { state := .opened, name := some name, generation, first, count, kind := k, level }
                  sector := first, line := 0, first := 0, values := headerLine name generation first k count level })
                (serving .mgmt tag req s))))
  ∧ (∀ s : State, Table.wf none s.dir = true →
    (∀ i, lowestFree s = some i ↔ 1 ≤ i ∧ i ≤ 256 ∧ s.image i = none ∧ ∀ j, 1 ≤ j → j < i → s.image j ≠ none)
    ∧ (lowestFree s = none ↔ ∀ j, 1 ≤ j → j ≤ 256 → s.image j ≠ none)
    ∧ (∀ n i im, s.image i = some im → im.name = some n → im.generation ≤ greatestGeneration s n)
    ∧ (∀ n, (∃ i im, s.image i = some im ∧ im.name = some n ∧ im.generation = greatestGeneration s n)
        ∨ greatestGeneration s n = 0)
    ∧ (∀ first count m st, extentRefusal s first count = some (m, st) ↔
        first ≤ m ∧ m < first + count ∧ sectorRefusal s m = some st
          ∧ ∀ k, first ≤ k → k < m → sectorRefusal s k = none)
    ∧ (∀ m, sectorRefusal s m =
        if (s.sector m).owner ≠ none then some .extentOwned
        else if (s.sector m).target ≠ none then some .busy
        else if (s.sector m).failed then some .sectorFailed
        else if s.isProtected m then some .protection
        else none))

/-- WRITE at a management port that attends: its checks in order, and the program sequence of its data. -/
def Obligations.WriteChecksAndPrograms : Prop :=
  ∀ (tag : Byte) (i offset : Nat) (data : List Byte) (s : State), s.Attends .mgmt →
    let req := Request.write i offset data
    let refused := fun st : Status => answered .mgmt tag req st [] s
    exec (.write tag i offset data) s = .next (
      if ¬ (1 ≤ i ∧ i ≤ 256) then refused .range
      else match s.image i with
        | none => refused .wrongState
        | some im =>
          let sector := im.first + (256 + offset) / 65536
          if im.state ≠ .opened then refused .wrongState
          else if ¬ (1 ≤ data.length ∧ data.length ≤ 256) then refused .align
          else if capacity im.count < offset + data.length then refused .limit
          else if 256 < offset % 256 + data.length then refused .align
          else if s.isProtected sector then refused .protection
          else settle (joinMedia sector (.program { issuer := .write, sector, line := (256 + offset) % 65536 / 256
                                                    first := (256 + offset) % 256, values := data })
            (serving .mgmt tag req s)))

/-- PUBLISH at a management port that attends: its checks in order, and the program sequence of the payload length and
expected CRC fields of the header line. -/
def Obligations.PublishChecksAndPrograms : Prop :=
  ∀ (tag : Byte) (i length : Nat) (crc : Word32) (s : State), s.Attends .mgmt →
    let req := Request.publish i length crc
    let refused := fun st : Status => answered .mgmt tag req st [] s
    exec (.publish tag i length crc) s = .next (
      if ¬ (1 ≤ i ∧ i ≤ 256) then refused .range
      else match s.image i with
        | none => refused .wrongState
        | some im =>
          if im.state ≠ .opened then refused .wrongState
          else if ¬ (1 ≤ length ∧ length ≤ capacity im.count) then refused .limit
          else if s.isProtected im.first then refused .protection
          else if [1, 2, 3, 4, 5, 6, 7, 8].all (fun n => (s.job n).isSome) then refused .jobsFull
          else settle (joinMedia im.first (.program { issuer := .publishFields i length crc, sector := im.first, line := 0
                                                      first := 32, values := be 4 length ++ be 4 crc.toNat })
            (serving .mgmt tag req s)))

/-- RETIRE and DISCARD at a management port that attends: their checks in order, and the program sequence of the mark. -/
def Obligations.RetireAndDiscardCheckAndProgramTheirMark : Prop :=
  ∀ (tag : Byte) (i : Nat) (s : State), s.Attends .mgmt →
    (let refused := fun st : Status => answered .mgmt tag (.retire i) st [] s
     exec (.retire tag i) s = .next (
      if ¬ (1 ≤ i ∧ i ≤ 256) then refused .range
      else match s.image i with
        | none => refused .wrongState
        | some im =>
          if im.state ≠ .ready then refused .wrongState
          else if s.isProtected im.first then refused .protection
          else settle (joinMedia im.first (.program { issuer := .retiredMark i, sector := im.first, line := 0, first := 65
                                                      values := [0x00] }) (serving .mgmt tag (.retire i) s))))
    ∧ (let refused := fun (st : Status) (rs : List Byte) => answered .mgmt tag (.discard i) st rs s
       exec (.discard tag i) s = .next (
        if ¬ (1 ≤ i ∧ i ≤ 256) then refused .range []
        else match s.image i with
          | none => refused .wrongState []
          | some im =>
            if !(match im.state with | .opened => true | .retired => true | .bad _ => true | _ => false) then
              refused .wrongState []
            else match (extentSectors im.first im.count).find? s.isProtected with
              | some n => refused .protection (be 1 n)
              | none =>
                if [1, 2, 3, 4, 5, 6, 7, 8].all (fun n => (s.job n).isSome) then refused .jobsFull []
                else settle (joinMedia im.first (.program { issuer := .discardMark i, sector := im.first, line := 0
                                                            first := 66, values := [0x00] })
                  (serving .mgmt tag (.discard i) s))))

/-- ABANDON at a management port that attends: its four checks in order; a refusal is the status alone. -/
def Obligations.AbandonChecksInOrder : Prop :=
  ∀ (tag : Byte) (n : Nat) (s : State), s.Attends .mgmt →
    let refused := fun st : Status => exec (.abandon tag n) s = .next (answered .mgmt tag (.abandon n) st [] s)
    (¬ (1 ≤ n ∧ n ≤ 8) → refused .range)
    ∧ (1 ≤ n ∧ n ≤ 8 → s.job n = none → refused .noJob)
    ∧ (∀ j, 1 ≤ n ∧ n ≤ 8 → s.job n = some j → j.work.kind ≠ .verify → refused .notAbandonable)
    ∧ (∀ j i checked crc, 1 ≤ n ∧ n ≤ 8 → s.job n = some j → j.work = .verify i true checked crc →
        refused .notAbandonable)

/-- An ABANDON of a VERIFY in its READING phase ends the job with no cause: its verify read leaves the bank's list, or its
sense goes on for no job; the entry is OPEN again, and the slot keeps the outcome and the bytes checked. -/
def Obligations.AbandonEndsAVerify : Prop :=
  ∀ (tag : Byte) (n i checked : Nat) (crc : Word32) (j : Job) (im : Image) (s : State), s.Attends .mgmt →
    1 ≤ n ∧ n ≤ 8 → s.job n = some j → j.work = .verify i false checked crc → s.image i = some im →
    exec (.abandon tag n) s = .next (answered .mgmt tag (.abandon n) .ok (be 2 i ++ be 4 checked)
      { s with
        jobs := s.jobs.filter (·.number != n)
        lastOutcomes := Table.put none s.lastOutcomes n
          (some { kind := .verify, target := i, outcome := .abandoned, progress := some checked })
        sectors := Table.map {} (fun r => if r.target = some n then { r with target := none } else r) s.sectors
        dir := Table.put none s.dir i (some { im with state := .opened })
        banks := s.banks.map fun _ k => { k with
          waiting := k.waiting.filter fun a => match a with
            | .media (.verifyRead m _ _) _ => m != n
            | _ => true
          activity := match k.activity with
            | .sensing (.verify (some m) sector line) => .sensing (.verify (if m = n then none else some m) sector line)
            | x => x } })

/-- REVOKE at a management port that attends: refused RANGE or WRONG_STATE; otherwise every BOUND record of the entry
becomes REVOKED, each port that held one has the cause, the binding count is 0, and the entry is RETIRED when no read of
it is in flight. -/
def Obligations.RevokeTakesAnEntryAway : Prop :=
  ∀ (tag : Byte) (i : Nat) (s : State), s.Attends .mgmt →
    let answer := answered .mgmt tag (.revoke i)
    (¬ (1 ≤ i ∧ i ≤ 256) → exec (.revoke tag i) s = .next (answer .range [] s))
    ∧ (1 ≤ i ∧ i ≤ 256 → (s.image i = none ∨ ∃ im, s.image i = some im ∧ im.state ≠ .retiring) →
        exec (.revoke tag i) s = .next (answer .wrongState [] s))
    ∧ (∀ im, 1 ≤ i ∧ i ≤ 256 → s.image i = some im → im.state = .retiring → ∃ clients : Quad ClientUnit,
        let im' := { im with bindings := 0, state := if im.reads = 0 then ImageState.retired else .retiring }
        exec (.revoke tag i) s = .next (answer .ok
          (be 1 (totalBound i s) ++ be 1 (portsNotified i s) ++ be 1 im.reads ++ [stateCode (some im')])
          { s with clients, dir := Table.put none s.dir i (some im') })
        ∧ ∀ c, (boundRecords i (s.client c) = 0 → clients.get c = s.client c)
          ∧ (boundRecords i (s.client c) ≠ 0 → clients.get c = { s.client c with
              apertures := Table.map none (fun o => match o with
                | some r => some (if r.revoked = false ∧ r.entry = i then { r with revoked := true } else r)
                | none => none) (s.client c).apertures
              port := { (s.client c).port with causes := (s.client c).port.causes.put .revoked true } }))

/-- ERASE at a management port that attends: its checks in order, and the job it admits into the lowest free slot, answered
at the take. -/
def Obligations.EraseChecksAndAdmitsItsJob : Prop :=
  ∀ (tag : Byte) (sector : Nat) (s : State), s.Attends .mgmt →
    let refused := fun st : Status => answered .mgmt tag (.erase sector) st [] s
    exec (.erase tag sector) s = .next (
      if 255 < sector then refused .range
      else if (s.sector sector).owner ≠ none then refused .extentOwned
      else if (s.sector sector).target ≠ none then refused .busy
      else if s.isProtected sector then refused .protection
      else match [1, 2, 3, 4, 5, 6, 7, 8].find? (fun n => (s.job n).isNone) with
        | none => refused .jobsFull
        | some n => settle (joinMedia sector (.eraseStart n sector) (answered .mgmt tag (.erase sector) .accepted (be 1 n)
            { s with
              jobs := s.jobs ++ [{ number := n, work := .erase sector, sector, line := 0, active := false }]
              lastOutcomes := Table.put none s.lastOutcomes n none
              sectors := Table.put {} s.sectors sector { s.sector sector with target := some n } })))

/-- A supply-bound access that joins a quiet bank while a slot is free starts at once in an unprotected sector, its job, if
it has one, ACTIVE: a program sequence with its blank check, an erase with a RUNNING context. While both slots are held it
waits, and its bank's claim stands at the end of the arbiter's list. A free bank that holds the slot of its claim starts the
oldest supply-bound access of its list: in a protected sector a program sequence ends PROGRAM_FAILED and an erase start
PROTECTION at once, the slot released; an erase that begins withdraws a waiting READ_RAW of its sector, which is answered
BUSY_SECTOR, and no other access. No start writes the flash. -/
def Obligations.SupplyBoundAccessJoinsAQuietBank : Prop :=
  (∀ (b : BankId) (q : ProgramSequence) (s : State), s.Quiet b → s.slotFree = true → Four.nth (q.sector / 64) = b →
    s.isProtected q.sector = false →
    settle (joinMedia q.sector (.program q) s) = giveSlot (.bank b)
      ({ s with jobs := match q.issuer with
          | .publishedMark n => s.jobs.map fun j : Job => if j.number = n then { j with active := true } else j
          | _ => s.jobs }.setBank b
        { activity := .programming q .blankCheck, openLine := none, erase := none, waiting := [], claim := .access }))
  ∧ (∀ (b : BankId) (n sector : Nat) (s : State), s.Quiet b → s.slotFree = true → Four.nth (sector / 64) = b →
    s.isProtected sector = false →
    settle (joinMedia sector (.eraseStart n sector) s) = giveSlot (.bank b)
      ({ s with jobs := s.jobs.map fun j : Job => if j.number = n then { j with active := true } else j }.setBank b
        { activity := .erasing, openLine := none, waiting := [], claim := .none
          erase := some { sector, job := n, suspended := false, runningTime := 0, lockout := 0, served := false } }))
  ∧ (∀ (sector : Nat) (m : MediaAccess) (s : State), s.Quiet (Four.nth (sector / 64)) → s.slotFree = false →
    (Access.media m 0).isSupplyBound = true →
    settle (joinMedia sector m s) = { s.setBank (Four.nth (sector / 64))
        { s.bank (Four.nth (sector / 64)) with waiting := [.media m 0], claim := .access } with
      claims := s.claims ++ [.bank (Four.nth (sector / 64))] })
  ∧ (∀ (b : BankId) (s : State), (s.bank b).isFree = true → (s.bank b).claim = .access → (s.bank b).erase = none →
    s.holdsSlot (.bank b) = true →
    let rest := (s.bank b).waiting.eraseP Access.isSupplyBound
    let active := fun n : Nat => s.jobs.map fun j : Job => if j.number = n then { j with active := true } else j
    let quit := fun jobs : List Job => releaseSlot (.bank b) ({ s with jobs := jobs }.setBank b
      { activity := .idle, openLine := none, erase := none, waiting := rest, claim := .none })
    (∀ q credit, (s.bank b).waiting.find? Access.isSupplyBound = some (.media (.program q) credit) →
      let jobs := match q.issuer with
        | .publishedMark n => active n
        | _ => s.jobs
      (s.isProtected q.sector = true → start s b = some (programEnded q.issuer .failed (quit jobs)))
      ∧ (s.isProtected q.sector = false → start s b = some ({ s with jobs := jobs }.setBank b
          { activity := .programming q .blankCheck, openLine := none, erase := none, waiting := rest, claim := .access })))
    ∧ (∀ n sector credit, (s.bank b).waiting.find? Access.isSupplyBound = some (.media (.eraseStart n sector) credit) →
      let raw := fun a : Access => match a with
        | .read r => r.request == .readRaw && r.sector == sector
        | _ => false
      let begun := { s with jobs := active n }.setBank b
        { activity := .erasing, openLine := none, waiting := rest.filter fun a => !raw a, claim := .none
          erase := some { sector, job := n, suspended := false, runningTime := 0, lockout := 0, served := false } }
      (s.isProtected sector = true → start s b = some (eraseDone n sector .protection (quit (active n))))
      ∧ (s.isProtected sector = false → (s.bank b).waiting.any raw = false → start s b = some begun)
      ∧ (s.isProtected sector = false → (s.bank b).waiting.any raw = true →
          start s b = some (respond .mgmt .busySector [] { begun with mgmt := { s.mgmt with readMark := false } }))))
  ∧ ∀ (b : BankId) (s t : State), start s b = some t → t.mem = s.mem ∧ t.row = s.row ∧ t.boot = s.boot

/-! ## The settings store -/

/-- The settings requests at a management port that attends: their checks in order, and the one operation each starts,
which lodges the store's claim behind those already lodged. That a BOOT_SET with a parameter out of range is refused RANGE and
not BOOT_LOCKED while the lock is IN_FORCE is the model's choice (log 29). -/
def Obligations.SettingsRequestsCheckAndStart : Prop :=
  ∀ (tag : Byte) (s : State), s.Attends .mgmt →
    let refused := fun (r : Request) (st : Status) => answered .mgmt tag r st [] s
    let starts := fun (r : Request) (work : SettingsWork) =>
      settle (lodge .settings { serving .mgmt tag r s with op := some { work, running := false, elapsed := 0 } })
    (∀ g, exec (.protect tag g) s = .next (
      if 63 < g then refused (.protect g) .range
      else if [4 * g, 4 * g + 1, 4 * g + 2, 4 * g + 3].any (fun n => (s.sector n).target.isSome) then
        refused (.protect g) .busy
      else starts (.protect g) (.protectBit g)))
    ∧ exec (.unprotectAll tag) s = .next (
      if s.wpHigh then starts .unprotectAll .eraseRow else refused .unprotectAll .protection)
    ∧ (∀ n primary fallback level,
        (¬ (1 ≤ n ∧ n ≤ 4 ∧ primary ≠ 0 ∧ level ≤ 3) →
          exec (.bootSet tag n primary fallback level) s = .next (refused (.bootSet n primary fallback level) .range))
        ∧ (∀ c : ClientId, n = c.pos + 1 → primary ≠ 0 → level ≤ 3 →
          exec (.bootSet tag n primary fallback level) s = .next (
            if s.lockInForce then refused (.bootSet n primary fallback level) .bootLocked
            else starts (.bootSet n primary fallback level) (.bootEntry c (bootEntryBytes primary fallback level)))))
    ∧ exec (.bootClear tag) s = .next (
      if s.lockInForce then refused .bootClear .bootLocked else starts .bootClear .eraseBoot)
    ∧ exec (.bootLock tag) s = .next (starts .bootLock .lockMark)

/-- A settings-store operation whose claim finds a free slot runs at once; a program operation first reads its target, and
ends at once, its copies taken from the store, when a byte is not acceptable or nothing is left to program. -/
def Obligations.SettingsOperationStartsOnAFreeSlot : Prop :=
  ∀ (work : SettingsWork) (s : State), s.StoreQuiet → s.slotFree = true →
    let started := settle (lodge .settings { s with op := some { work, running := false, elapsed := 0 } })
    let runs := giveSlot .settings { s with op := some { work, running := true, elapsed := 0 } }
    (work = .eraseRow ∨ work = .eraseBoot → started = runs)
    ∧ (∀ g, work = .protectBit g → s.row.getLsbD g = true → started = runs)
    ∧ (∀ g, work = .protectBit g → s.row.getLsbD g = false → started = respond .mgmt .ok [] (refreshRow s))
    ∧ (∀ a values old, (∃ c, work = .bootEntry c values ∧ a = 16 * c.pos) ∨ (work = .lockMark ∧ a = 64 ∧ values = [0x00]) →
        old = Memory.readN s.boot a values.length →
        ((∃ p ∈ old.zip values, p.1 ≠ 0xFF ∧ p.1 ≠ p.2) → started = respond .mgmt .notBlank [] (refreshBoot s))
        ∧ (old = values → started = respond .mgmt .ok [] (refreshBoot s))
        ∧ ((∀ p ∈ old.zip values, p.1 = 0xFF ∨ p.1 = p.2) → old ≠ values → started = runs))

/-- The end of a RUNNING settings-store operation. A program: with the read-back equal its target holds the values asked for
and the answer is OK; otherwise, or at its time limit, the answer is PROGRAM_FAILED and nothing outside the target has
changed. An erase: at its completion its unit reads 0xFF and the answer is OK; at its time limit the answer is ERASE_FAILED
and nothing outside its unit has changed. Each releases the slot and reads the copies from the store. Whether the read-back
is equal is the command's operand (log 8). -/
def Obligations.SettingsOperationEnds : Prop :=
  (∀ (o : SettingsOp) (s : State), s.op = some o → o.running = true →
    let ends := fun (st : Status) (t : State) =>
      Host.Outcome.next (conclude (respond .mgmt st [] (o.work.refresh (releaseSlot .settings { t with op := none }))))
    (∀ g, o.work = .protectBit g →
      exec (.settingsProgramCompletion true) s = ends .ok { s with row := setRowBit s.row g false }
      ∧ ∃ row n, exec (.settingsProgramCompletion false) s = ends .programFailed { s with row := row, freeCount := n }
        ∧ exec .settingsProgramTimeout s = exec (.settingsProgramCompletion false) s
        ∧ (∀ h, h ≠ g → row.getLsbD h = s.row.getLsbD h) ∧ (s.row.getLsbD g = false → row.getLsbD g = false))
    ∧ (∀ a values, (∃ c, o.work = .bootEntry c values ∧ a = 16 * c.pos) ∨ (o.work = .lockMark ∧ a = 64 ∧ values = [0x00]) →
      exec (.settingsProgramCompletion true) s = ends .ok { s with boot := Memory.writeN s.boot a values }
      ∧ ∃ boot n, exec (.settingsProgramCompletion false) s = ends .programFailed { s with boot := boot, freeCount := n }
        ∧ exec .settingsProgramTimeout s = exec (.settingsProgramCompletion false) s
        ∧ ∀ x, x < a ∨ a + values.length ≤ x → Memory.read boot x = Memory.read s.boot x))
  ∧ (∀ (o : SettingsOp) (s : State), s.op = some o → o.running = true → Memory.wf s.boot = true →
    let ends := fun (st : Status) (t : State) =>
      Host.Outcome.next (conclude (respond .mgmt st [] (o.work.refresh (releaseSlot .settings { t with op := none }))))
    (o.work = .eraseRow →
      exec .settingsEraseCompletion s = ends .ok { s with row := BitVec.allOnes 64 }
      ∧ ∃ row n, exec .settingsEraseTimeout s = ends .eraseFailed { s with row := row, freeCount := n })
    ∧ (o.work = .eraseBoot →
      (∃ boot, exec .settingsEraseCompletion s = ends .ok { s with boot := boot }
        ∧ (∀ a, a < 128 → Memory.read boot a = 0xFF) ∧ ∀ a, 128 ≤ a → Memory.read boot a = Memory.read s.boot a)
      ∧ ∃ boot n, exec .settingsEraseTimeout s = ends .eraseFailed { s with boot := boot, freeCount := n }
        ∧ ∀ a, 128 ≤ a → Memory.read boot a = Memory.read s.boot a))

/-! ## Pins and resets -/

/-- WP_CHANGE changes the WP input and no record; a sector is protected when its group's bit in the working copy is 0, or
when its group is 0 or 1 and WP is low, and otherwise it is not. -/
def Obligations.WpChangesNoRecordAndProtection : Prop :=
  (∀ (high : Bool) (s : State), exec (.wpChange high) s = .next { s with wpHigh := high })
  ∧ ∀ (s : State) (n : Nat), s.isProtected n = true ↔
      s.rowCopy.getLsbD (n / 4) = false ∨ (n / 4 ≤ 1 ∧ s.wpHigh = false)

/-- RESET_ASSERTED: every volatile item takes its reset value, RESET is held, and the pins and the waiting commands stay.
The array keeps every byte outside the targets of the program sequences past their blank check and the sectors under
erase. The settings store is unchanged when no operation runs; while one runs it keeps every row bit and every boot-area
byte outside the operation's target or its unit, and no row bit that reads 0 is set except by an erase of the row. -/
def Obligations.ResetAssertedClearsTheVolatileState : Prop :=
  ∀ s : State, ∃ mem row boot n,
    exec .resetAsserted s = .next { State.reset with
      mem := mem, row := row, boot := boot, freeCount := n, resetHeld := true, wpHigh := s.wpHigh, pending := s.pending
      clients := s.clients.map fun _ u => { line := u.line } }
    ∧ (storePowered s = false → row = s.row ∧ boot = s.boot)
    ∧ (∀ o, s.op = some o → o.running = true →
      (∀ g, o.work = .protectBit g → boot = s.boot
        ∧ (∀ h, h ≠ g → row.getLsbD h = s.row.getLsbD h) ∧ (s.row.getLsbD g = false → row.getLsbD g = false))
      ∧ (o.work = .eraseRow → boot = s.boot)
      ∧ (∀ a values, (∃ c, o.work = .bootEntry c values ∧ a = 16 * c.pos) ∨ (o.work = .lockMark ∧ a = 64 ∧ values = [0x00]) →
        row = s.row ∧ ∀ x, x < a ∨ a + values.length ≤ x → Memory.read boot x = Memory.read s.boot x)
      ∧ (o.work = .eraseBoot → row = s.row ∧ ∀ x, 128 ≤ x → Memory.read boot x = Memory.read s.boot x))
    ∧ ∀ a : Nat,
      (∀ b q f, (s.bank b).activity = .programming q f → f ≠ .blankCheck →
        a < lineAddress q.sector q.line q.first ∨ lineAddress q.sector q.line q.first + q.values.length ≤ a) →
      (∀ b e, (s.bank b).erase = some e → a < e.sector * 65536 ∨ (e.sector + 1) * 65536 ≤ a) →
      Memory.read mem a = Memory.read s.mem a

/-- RESET_RELEASED: with RESET held, it is released, and each client port whose line is asserted is RESETTING with
CLIENT_RESET raised; nothing else changes. That it changes nothing where RESET is not held is the model's choice (log 2).
POWER_ON is RESET_ASSERTED followed by RESET_RELEASED. -/
def Obligations.ResetReleasedAndPowerOn : Prop :=
  ∀ s : State,
    (s.resetHeld = true → exec .resetReleased s = .next { s with
      resetHeld := false
      clients := s.clients.map fun _ u => if u.line then { u with port := { u.port with state := .resetting } } else u
      mgmt := if [Four.zero, .one, .two, .three].any (fun c => (s.client c).line)
        then { s.mgmt with causes := { s.mgmt.causes with clientReset := true } } else s.mgmt })
    ∧ (s.resetHeld = false → exec .resetReleased s = .next s)
    ∧ ∃ t u, exec .resetAsserted s = .next t ∧ exec .resetReleased t = .next u ∧ exec .powerOn s = .next u

/-- The state right after reset has the values the manual gives, and meets every invariant that the steps keep. That no
PORT_RESET line is asserted, so that every port is STARTING, is the model's choice (log 6). That no
PORT_RESET line is asserted, so that every port is STARTING, is the model's choice (log 6), and so is the next index before the
scan (log 30). -/
def Obligations.ResetValuesAndInvariants : Prop :=
  (let s := State.reset
  (∀ i, s.image i = none) ∧ (∀ n, s.sector n = { owner := none, failed := false, target := none })
  ∧ s.rowCopy = 0 ∧ s.lockInForce = true ∧ s.op = none
  ∧ (∀ p, s.port p = { state := .starting, queue := [], inService := false, readMark := false, sending := none
                       notBegun := [], causes := {} } ∧ (s.port p).attention = false)
  ∧ (∀ c, (s.client c).level = 3 ∧ (s.client c).bootCopy = .blank ∧ ∀ ap, s.aperture c ap = none)
  ∧ (∀ b, s.bank b = { activity := .idle, openLine := none, erase := none, waiting := [], claim := .none })
  ∧ s.slotA = none ∧ s.slotB = none ∧ s.claims = []
  ∧ s.jobs = [] ∧ (∀ n, s.lastOutcome n = none)
  ∧ s.scanStage = .readingSettings ∧ s.nextIndex = 1 ∧ s.pending = [])
  ∧ (State.reset.Canonical ∧ State.reset.PortsLegal ∧ State.reset.BanksLegal ∧ State.reset.LevelsLegal
    ∧ State.reset.Supplied ∧ State.reset.Counted ∧ State.reset.Lawful)

/-- PORT_RESET_ASSERTED with RESET held or at a RESETTING port changes only the line; at a STARTING port it makes the port
RESETTING with CLIENT_RESET raised (that its link output is cut is deduced, log 25). PORT_RESET_RELEASED with RESET held, or
at a port that is not RESETTING, changes only the line. That the line alone changes where the port already stands so, an
assertion at a RESETTING port and a release at a port that is not RESETTING, is the model's reading (logs 2, 26). A
RESETTING port becomes STARTING before the scan has ended, and after it has its boot binding and becomes READY. -/
def Obligations.PortResetWhileStartingAndReleased : Prop :=
  (∀ (c : ClientId) (s : State),
    let line := s.setClient c { s.client c with line := true }
    (s.resetHeld = true ∨ (s.client c).port.state = .resetting → exec (.portResetAsserted c) s = .next line)
    ∧ (s.resetHeld = false → (s.client c).port.state = .starting →
        exec (.portResetAsserted c) s = .next { line with
          mgmt := { s.mgmt with causes := { s.mgmt.causes with clientReset := true } }
          clients := line.clients.set c { s.client c with
            line := true, port := { state := .resetting, readMark := (s.client c).port.readMark } } }))
  ∧ (∀ (c : ClientId) (s : State),
    let line := s.setClient c { s.client c with line := false }
    (s.resetHeld = true ∨ (s.client c).port.state ≠ .resetting → exec (.portResetReleased c) s = .next line)
    ∧ (s.resetHeld = false → (s.client c).port.state = .resetting → s.scanStage ≠ .finished →
        exec (.portResetReleased c) s = .next (line.setPort (.client c) { (s.client c).port with state := .starting }))
    ∧ (s.resetHeld = false → (s.client c).port.state = .resetting → s.scanStage = .finished →
        exec (.portResetReleased c) s = .next (takesAll ((bootBind c line).setPort (.client c)
          { ((bootBind c line).client c).port with state := .ready }))))

/-- PORT_RESET_ASSERTED at a READY port: the port is RESETTING, its requests, causes and unsent responses are gone, and
every aperture is EMPTY, its waiting reads are withdrawn and its sensing read is marked dropped; each entry is lowered by
its BOUND records and withdrawn reads, and examined; the other ports keep their records, and CLIENT_RESET is raised. -/
def Obligations.PortResetAssertedClearsAReadyPort : Prop :=
  ∀ (c : ClientId) (s : State), s.Canonical → s.resetHeld = false → (s.client c).port.state = .ready →
    ∃ u, exec (.portResetAsserted c) s = .next (conclude u)
      ∧ u.client c = { s.client c with
          line := true, apertures := []
          port := { state := .resetting
                    readMark := (s.client c).port.readMark
                      && !([Four.zero, .one, .two, .three].any fun b =>
                            (s.bank b).waiting.any (isReadOf (.client c))) } }
      ∧ (∀ d, d ≠ c → u.client d = s.client d)
      ∧ u.mgmt = { s.mgmt with causes := { s.mgmt.causes with clientReset := true } }
      ∧ (∀ b, u.bank b = { s.bank b with
          waiting := (s.bank b).waiting.filter fun a => match a with
            | .read r => r.port != .client c
            | _ => true
          activity := match (s.bank b).activity with
            | .sensing (.read a) => .sensing (.read (if a.port = .client c then { a with dropped := true } else a))
            | x => x })
      ∧ (∀ i, u.image i = (s.image i).map fun im =>
          let bound := boundRecords i (s.client c)
          let reads := ((waitingEntries (.client c) (s.bank .zero)).count i + (waitingEntries (.client c) (s.bank .one)).count i
            + (waitingEntries (.client c) (s.bank .two)).count i + (waitingEntries (.client c) (s.bank .three)).count i)
          if bound + reads = 0 then im
          else retireIfIdle { im with bindings := im.bindings - bound, reads := im.reads - reads })
      ∧ u.mem = s.mem ∧ u.row = s.row ∧ u.boot = s.boot ∧ u.sectors = s.sectors ∧ u.jobs = s.jobs
      ∧ u.slotA = s.slotA ∧ u.slotB = s.slotB ∧ u.claims = s.claims ∧ u.op = s.op

/-- Boot binding of a client port: the level of its copy, or 3; nothing more with a BLANK copy; BOOT_MISSING with an
INVALID one; otherwise the newest READY entry of the primary name, or else of the fallback, that the level may bind, bound
to aperture 0 with the boot flag set, or BOOT_MISSING. -/
def Obligations.BootBindingFollowsTheBootEntry : Prop :=
  ∀ (c : ClientId) (s : State),
    let missing := fun t : State => t.setPort (.client c)
      { (t.client c).port with causes := { (t.client c).port.causes with bootMissing := true } }
    let bound := fun (e : Nat × Image) (t : State) =>
      (setAperture c 0 (some { boundRecord e false with boot := true }) t).updImage e.1
        fun im => { im with bindings := im.bindings + 1 }
    ((s.client c).bootCopy = .blank → bootBind c s = s.setClient c { s.client c with level := 3 })
    ∧ ((s.client c).bootCopy = .invalid → bootBind c s = missing (s.setClient c { s.client c with level := 3 }))
    ∧ (∀ primary fallback level, (s.client c).bootCopy = .valid primary fallback level →
        let t := s.setClient c { s.client c with level }
        (∀ e, newest s primary = some e → level ≤ e.2.level → bootBind c s = bound e t)
        ∧ ((∀ e, newest s primary = some e → e.2.level < level) →
            (∀ e, newest s fallback = some e → level ≤ e.2.level → bootBind c s = bound e t)
            ∧ ((∀ e, newest s fallback = some e → e.2.level < level) → bootBind c s = missing t)))

/-! ## The start-up scan -/

/-- SETTINGS_READ_COMPLETION: the working copies take what the store holds and the sense of line 0 of sector 0 begins.
SCAN_SENSE_COMPLETION: a valid header makes an entry at the next index, nameless and BAD when an entry already holds its name
and generation, and the scan goes on behind its extent; otherwise it goes on at the next sector; past sector 255 the scan
ends. Which lines are valid headers, and what image each gives, StoredRecordsReadBack states. -/
def Obligations.ScannerReadsAndJudges : Prop :=
  (∀ s : State, s.scanStage = .readingSettings → s.resetHeld = false →
    exec .settingsReadCompletion s = .next { s with
      rowCopy := s.row
      lockInForce := Memory.read s.boot 64 != 0xFF
      clients := s.clients.map fun c u => { u with bootCopy := bootForm (Memory.readN s.boot (16 * c.pos) 11) }
      banks := s.banks.set .zero { s.bank .zero with activity := .sensing (.scan 0) }
      scanStage := .scanning, scanPosition := 0, nextIndex := 1 })
  ∧ (∀ s : State, s.scanStage = .scanning → s.resetHeld = false →
    (s.bank (bankOf s.scanPosition)).activity = .sensing (.scan s.scanPosition) →
    let idle := s.setBank (bankOf s.scanPosition) { s.bank (bankOf s.scanPosition) with activity := .idle, openLine := none }
    let goesOn := fun t : State => if t.scanPosition ≤ 255
      then t.setBank (bankOf t.scanPosition) { t.bank (bankOf t.scanPosition) with activity := .sensing (.scan t.scanPosition) }
      else takesAll (scanEnds t)
    let line := Memory.readN s.mem (s.scanPosition * 65536) 256
    (headerImage s.scanPosition line = none →
      exec .scanSenseCompletion s = .next (goesOn { idle with scanPosition := s.scanPosition + 1 }))
    ∧ (∀ im, headerImage s.scanPosition line = some im →
        let same := (namedEntries s (im.name.getD 0)).any fun e => e.2.generation == im.generation
        exec .scanSenseCompletion s = .next (goesOn { idle with
          dir := Table.put none s.dir s.nextIndex (some (if same then { im with state := .bad .duplicate, name := none } else im))
          sectors := Table.update {} (fun r => { r with owner := some s.nextIndex }) s.sectors im.first im.count
          nextIndex := s.nextIndex + 1, scanPosition := s.scanPosition + im.count })))

/-- The end of the scan: every STARTING port is READY, the client ports after their boot binding, a RESETTING port stays
RESETTING, and RESTARTED is raised at the management port. Boot binding sets the level of the port's copy, or 3; with a
VALID copy it binds aperture 0 to the newest READY entry of the primary name, or else of the fallback, that the level may
bind, with the boot flag set; the entry's binding count rises by the ports bound to it; and BOOT_MISSING is raised where a
copy that is not BLANK binds nothing. -/
def Obligations.ScanEndOpensThePorts : Prop :=
  ∀ s : State,
    let t := scanEnds s
    t.scanStage = .finished
    ∧ t.mgmt.causes = { s.mgmt.causes with restarted := true }
    ∧ (s.mgmt.state = .starting → t.mgmt.state = .ready)
    ∧ (∀ c, (s.client c).port.state = .starting → (t.client c).port.state = .ready
        ∧ (t.client c).level = (match (s.client c).bootCopy with
          | .valid _ _ level => level
          | _ => 3))
    ∧ (∀ c, (s.client c).port.state ≠ .starting → t.client c = s.client c)
    ∧ t.mem = s.mem ∧ t.sectors = s.sectors ∧ t.banks = s.banks
    ∧ (Table.wf none s.dir = true →
      let found := fun c : ClientId => match (s.client c).bootCopy with
        | .valid primary fallback level => ((newest s primary).filter fun e => decide (level ≤ e.2.level)).or
            ((newest s fallback).filter fun e => decide (level ≤ e.2.level))
        | _ => none
      (∀ c, (s.client c).port.state = .starting → t.client c = { s.client c with
          level := (match (s.client c).bootCopy with
            | .valid _ _ level => level
            | _ => 3)
          apertures := (match found c with
            | some e => Table.put none (s.client c).apertures 0 (some { boundRecord e false with boot := true })
            | none => (s.client c).apertures)
          port := { (s.client c).port with
            state := .ready
            causes := if (s.client c).bootCopy = .blank ∨ (found c).isSome then (s.client c).port.causes
              else { (s.client c).port.causes with bootMissing := true } } })
      ∧ ∀ i, t.image i = (s.image i).map fun im => { im with
          bindings := im.bindings + ([Four.zero, .one, .two, .three].filter fun c =>
            (s.client c).port.state == .starting && (found c).map Prod.fst == some i).length })

/-! ## The events of the banks -/

/-- SENSE_COMPLETION of a read access: the sensed line is the open line, the entry's reads in flight fall and its counts are
examined, a FETCH that is not dropped sets the accessed flag, the port's read mark is cleared, and an access that is not
dropped answers the bytes of the array. -/
def Obligations.SenseCompletionCompletesARead : Prop :=
  ∀ (b : BankId) (a : ReadAccess) (s : State), (s.bank b).activity = .sensing (.read a) →
    let sensed := s.setBank b { s.bank b with activity := .lineOpen, openLine := some (a.sector, a.line) }
    let counted := match a.entry with
      | some i => lowerReads i (if a.request = .fetch ∧ a.dropped = false
          then sensed.updImage i fun im => { im with accessed := true } else sensed)
      | none => sensed
    let unmarked := setReadMark a.port false counted
    exec (.senseCompletion b) s = .next (conclude (if a.dropped then unmarked
      else respond a.port .ok (Memory.readN s.mem (a.sector * 65536 + a.line * 256 + a.first) a.length) unmarked))

/-- SENSE_COMPLETION of a verify read: the sensed line is the open line. The bytes of an abandoned job's read are dropped.
Otherwise the payload bytes of the line are fed to the job's CRC; the job goes on to the next line, or, past its last,
to its mark when the CRC agrees, or ends with the entry BAD and JOB_FAILED when it differs. A line hit completes a verify read
in the same way. -/
def Obligations.SenseCompletionAdvancesAVerify : Prop :=
  ∀ (b : BankId) (job : Option Nat) (sector line : Nat) (s : State),
    (s.bank b).activity = .sensing (.verify job sector line) →
    let sensed := s.setBank b { s.bank b with activity := .lineOpen, openLine := some (sector, line) }
    (job = none → exec (.senseCompletion b) s = .next (conclude sensed))
    ∧ (∀ n j i checked crc im length expected, job = some n → s.job n = some j → j.work = .verify i false checked crc →
        s.image i = some im → im.published = some (length, expected) →
        let completed := fun (line : List Byte) (u : State) =>
          let bytes := line.take (min 256 (length - checked))
          let checked' := checked + bytes.length
          let crc' := crc32Feed crc bytes
          let advanced := fun marking : Bool => u.updJob n fun j => { j with work := .verify i marking checked' crc' }
          if checked' < length then
            let next := im.first + (checked' / 256 + 1) / 256
            issue n next ((checked' / 256 + 1) % 256) (.verifyRead n next ((checked' / 256 + 1) % 256)) (advanced false)
          else if crc32Finish crc' = expected then
            issue n im.first 0 (.program { issuer := .publishedMark n, sector := im.first, line := 0, first := 64
                                           values := [0x00] }) (advanced true)
          else
            raise .mgmt .jobFailed (endJob n .crcMismatch (some checked')
              (u.updImage i fun im => { im with state := .bad .crcMismatch }))
        exec (.senseCompletion b) s =
            .next (conclude (completed (Memory.readN s.mem (sector * 65536 + line * 256) 256) sensed))
        ∧ ∀ (line : List Byte) (u : State), u.job n = some j → u.image i = some im →
          verifyReadDone n line u = completed line u)

/-- BLANK_CHECK_COMPLETION: the sequence ends NOT_BLANK when a target byte is neither 0xFF nor its value, and done when all
hold their values; otherwise its program phase begins. PROGRAM_COMPLETION begins the read-back. READ_BACK_COMPLETION with
every byte equal leaves the target bytes at their values and ends the sequence done; with a difference, and at
PROGRAM_TIMEOUT, it ends PROGRAM_FAILED, a target byte that read 0xFF holding at least the bits of its value, and every
other byte unchanged. Whether the read-back is equal is the command's operand (log 8). -/
def Obligations.BlankCheckProgramAndReadBack : Prop :=
  (∀ (b : BankId) (q : ProgramSequence) (s : State), (s.bank b).activity = .programming q .blankCheck →
    let old := Memory.readN s.mem (q.sector * 65536 + q.line * 256 + q.first) q.values.length
    ((∃ p ∈ old.zip q.values, p.1 ≠ 0xFF ∧ p.1 ≠ p.2) →
      exec (.blankCheckCompletion b) s = .next (conclude (programEnded q.issuer .notBlank (quitBank b s))))
    ∧ (old = q.values →
      exec (.blankCheckCompletion b) s = .next (conclude (programEnded q.issuer .done (quitBank b s))))
    ∧ ((∀ p ∈ old.zip q.values, p.1 = 0xFF ∨ p.1 = p.2) → old ≠ q.values →
      exec (.blankCheckCompletion b) s = .next (conclude (s.setBank b
        { s.bank b with activity := .programming q (.program 0) }))))
  ∧ (∀ (b : BankId) (q : ProgramSequence) (s : State),
    let a := q.sector * 65536 + q.line * 256 + q.first
    (∀ n, (s.bank b).activity = .programming q (.program n) →
      exec (.programCompletion b) s = .next (conclude (s.setBank b { s.bank b with activity := .programming q .readBack })))
    ∧ ((s.bank b).activity = .programming q .readBack →
      exec (.readBackCompletion b true) s = .next (conclude (programEnded q.issuer .done
        (quitBank b { s with mem := Memory.writeN s.mem a q.values }))))
    ∧ ∃ mem k, (Memory.wf s.mem = true → Memory.wf mem = true ∧ ∀ x,
        (x < a ∨ a + q.values.length ≤ x → Memory.read mem x = Memory.read s.mem x)
        ∧ (∀ n v, x = a + n → q.values[n]? = some v →
          if Memory.read s.mem x = 0xFF then Memory.read mem x &&& v = v else Memory.read mem x = Memory.read s.mem x))
      ∧ ((s.bank b).activity = .programming q .readBack → exec (.readBackCompletion b false) s =
        .next (conclude (programEnded q.issuer .failed (quitBank b { s with mem := mem, freeCount := k }))))
      ∧ (∀ n, (s.bank b).activity = .programming q (.program n) → exec (.programTimeout b) s =
        .next (conclude (programEnded q.issuer .failed (quitBank b { s with mem := mem, freeCount := k })))))

/-- The end of a program sequence for its issuer: what each outcome does for OPEN, WRITE, PUBLISH, RETIRE, DISCARD and the
PUBLISHED mark of a VERIFY. That a mark that is not blank is MARK_FAILED is deduced (log 23). -/
def Obligations.ProgramSequenceEndsForItsIssuer : Prop :=
  ∀ s : State,
    (∀ i im, programEnded (.openHeader i im) .done s = respond .mgmt .ok (be 2 i ++ be 2 im.generation)
        ((s.setImage i (some im)).updExtent im.first im.count fun r => { r with owner := some i })
      ∧ programEnded (.openHeader i im) .notBlank s = respond .mgmt .notBlank [] s
      ∧ programEnded (.openHeader i im) .failed s = respond .mgmt .programFailed [] s)
    ∧ (programEnded .write .done s = respond .mgmt .ok [] s ∧ programEnded .write .notBlank s = respond .mgmt .notBlank [] s
      ∧ programEnded .write .failed s = respond .mgmt .programFailed [] s)
    ∧ (∀ i length crc,
      (∀ n im, [1, 2, 3, 4, 5, 6, 7, 8].find? (fun n => (s.job n).isNone) = some n → s.image i = some im →
        programEnded (.publishFields i length crc) .done s = respond .mgmt .accepted (be 1 n)
          (admitJob n (.verify i false 0 crc32Init) im.first 1 (.verifyRead n im.first 1)
            (s.setImage i (some { im with state := .verifying n, published := some (length, crc) }))))
      ∧ programEnded (.publishFields i length crc) .notBlank s = respond .mgmt .notBlank [] s
      ∧ programEnded (.publishFields i length crc) .failed s = respond .mgmt .programFailed [] s)
    ∧ (∀ i im out, s.image i = some im →
      let im' := { im with state := if im.bindings = 0 ∧ im.reads = 0 then ImageState.retired else .retiring }
      programEnded (.retiredMark i) out s = respond .mgmt (if out = .done then .ok else .markFailed)
        ([stateCode (some im')] ++ be 1 im.bindings ++ be 1 im.reads) (s.setImage i (some im')))
    ∧ (∀ i im n out, [1, 2, 3, 4, 5, 6, 7, 8].find? (fun n => (s.job n).isNone) = some n → s.image i = some im →
      let last := im.first + im.count - 1
      programEnded (.discardMark i) out s = respond .mgmt (if out = .done then .accepted else .markFailed) (be 1 n)
        (admitJob n (.discard i im.count) last 0 (.eraseStart n last)
          ((s.setImage i (some { im with state := .discarding n })).updExtent im.first im.count
            fun r => { r with target := some n })))
    ∧ (∀ n j i marking checked crc im, s.job n = some j → j.work = .verify i marking checked crc → s.image i = some im →
      programEnded (.publishedMark n) .done s = raise .mgmt .jobDone (announce { im with state := .ready }
          (endJob n .done (some checked) (s.setImage i (some { im with state := .ready }))))
      ∧ ∀ out, out ≠ .done → programEnded (.publishedMark n) out s = raise .mgmt .jobFailed
          (endJob n .markFailed (some checked) (s.setImage i (some { im with state := .bad .markFailed }))))

/-- The announcement of an entry that has become READY: NEWER is raised at exactly the client ports that hold a BOUND
record of its name at a lower generation, and nothing else changes. -/
def Obligations.NewerIsRaisedWhereAnOlderGenerationIsBound : Prop :=
  ∀ (name : Word32) (im : Image) (s : State), im.name = some name →
    ∃ clients : Quad ClientUnit, announce im s = { s with clients := clients }
      ∧ ∀ c, clients.get c =
        if ∃ e ∈ (s.client c).apertures, ∃ r, e.2 = some r ∧ r.revoked = false ∧ r.name = name ∧ r.generation < im.generation
        then { s.client c with port := { (s.client c).port with causes := { (s.client c).port.causes with newer := true } } }
        else s.client c

/-- ERASE_COMPLETION: the sector reads 0xFF in every byte and no other byte has changed, the context is gone, the bank is
IDLE without a slot, and the job has the completion. ERASE_TIMEOUT: no byte outside the sector has changed, the sector is
failed, and the job has the timeout. -/
def Obligations.EraseEndsByCompletionOrTimeout : Prop :=
  ∀ (b : BankId) (e : EraseContext) (s : State), Memory.wf s.mem = true →
    ((s.bank b).activity = .erasing ∨ ∃ n, (s.bank b).activity = .suspending n) → (s.bank b).erase = some e →
    e.suspended = false →
    let ended := fun t : State =>
      releaseSlot (.bank b) (t.setBank b { s.bank b with activity := .idle, openLine := none, erase := none })
    (∃ mem, exec (.eraseCompletion b) s = .next (conclude (eraseDone e.job e.sector .completion (ended { s with mem := mem })))
      ∧ (∀ x, e.sector * 65536 ≤ x → x < (e.sector + 1) * 65536 → Memory.read mem x = 0xFF)
      ∧ ∀ x, x < e.sector * 65536 ∨ (e.sector + 1) * 65536 ≤ x → Memory.read mem x = Memory.read s.mem x)
    ∧ ∃ mem k, exec (.eraseTimeout b) s = .next (conclude (eraseDone e.job e.sector .timeout
          ((ended { s with mem := mem, freeCount := k }).updSector e.sector fun r => { r with failed := true })))
      ∧ ∀ x, x < e.sector * 65536 ∨ (e.sector + 1) * 65536 ≤ x → Memory.read mem x = Memory.read s.mem x

/-- The end of an erase for its job. A DISCARD goes on to the next lower sector, or, its last sector erased, frees the entry
and its extent; a timeout or a protected sector leaves the entry BAD. An ERASE clears the sector's failed flag on
completion. Every end but the step to the next sector ends the job and raises its cause. -/
def Obligations.EraseEndsForItsJob : Prop :=
  ∀ (n sector : Nat) (j : Job) (s : State), s.job n = some j →
    (∀ i remaining im, j.work = .discard i remaining → s.image i = some im →
      (1 < remaining → eraseDone n sector .completion s =
        issue n (im.first + remaining - 2) 0 (.eraseStart n (im.first + remaining - 2))
          ((s.updSector sector fun r => { r with target := none }).updJob n
            fun j => { j with work := .discard i (remaining - 1) }))
      ∧ (remaining ≤ 1 → eraseDone n sector .completion s = raise .mgmt .jobDone (endJob n .done (some 0)
          ((s.updExtent im.first im.count fun r => { r with owner := none }).setImage i none)))
      ∧ eraseDone n sector .timeout s = raise .mgmt .jobFailed (endJob n .eraseFailed (some remaining)
          (s.setImage i (some { im with state := .bad .eraseFailed })))
      ∧ eraseDone n sector .protection s = raise .mgmt .jobFailed (endJob n .protection (some remaining)
          (s.setImage i (some { im with state := .bad .protection }))))
    ∧ (∀ m, j.work = .erase m →
      eraseDone n sector .completion s = raise .mgmt .jobDone (endJob n .done none
        (s.updSector sector fun r => { r with failed := false }))
      ∧ eraseDone n sector .timeout s = raise .mgmt .jobFailed (endJob n .eraseFailed none s)
      ∧ eraseDone n sector .protection s = raise .mgmt .jobFailed (endJob n .protection none s))

/-- The end of a job: it leaves the list, the others keeping their order, its remaining sector targets are removed, and its
slot keeps kind, target, outcome and final progress. -/
def Obligations.JobEndKeepsItsLastOutcome : Prop :=
  ∀ (n : Nat) (outcome : JobOutcome) (progress : Option Nat) (j : Job) (s : State), s.Canonical → s.job n = some j →
    let t := endJob n outcome progress s
    t.jobs = s.jobs.filter (fun k => k.number != n) ∧ t.job n = none
    ∧ (∀ m, t.lastOutcome m = if m = n then some { kind := j.work.kind, target := j.work.target, outcome, progress }
        else s.lastOutcome m)
    ∧ (∀ m, t.sector m = if (s.sector m).target = some n then { s.sector m with target := none } else s.sector m)
    ∧ t.dir = s.dir ∧ t.banks = s.banks ∧ t.clients = s.clients ∧ t.mgmt = s.mgmt ∧ t.mem = s.mem

/-- SUSPEND_COMPLETION: the context is SUSPENDED with its running time kept, the slot is released, and the bank is IDLE.
LOCKOUT_EXPIRY: the remaining lockout has passed as running time (log 19). A suspended erase claims its resume once its bank
has served a read or has none waiting, and resumes on the granted slot with its running time kept and a lockout of 100
microseconds. -/
def Obligations.SuspendLockoutAndResume : Prop :=
  (∀ (b : BankId) (e : EraseContext) (s : State), (s.bank b).erase = some e → e.suspended = false →
    (∀ n, (s.bank b).activity = .suspending n → exec (.suspendCompletion b) s = .next (conclude (releaseSlot (.bank b)
      (s.setBank b { s.bank b with
        activity := .idle, openLine := none, erase := some { e with suspended := true, served := false } }))))
    ∧ ((s.bank b).activity = .erasing → 0 < e.lockout → e.runningTime + e.lockout < 2000000 →
      exec (.lockoutExpiry b) s = .next (conclude (s.setBank b { s.bank b with
        erase := some { e with runningTime := e.runningTime + e.lockout, lockout := 0 } }))))
  ∧ (∀ (b : BankId) (e : EraseContext) (s : State), (s.bank b).isFree = true → (s.bank b).erase = some e →
    e.suspended = true →
    ((s.bank b).claim = .none → (e.served = true ∨ ∀ a ∈ (s.bank b).waiting, a.isRead = false) →
      lodgeResume s b = some { s.setBank b { s.bank b with claim := .resume } with claims := s.claims ++ [.bank b] })
    ∧ ((s.bank b).claim = .none → e.served = false → (∃ a ∈ (s.bank b).waiting, a.isRead = true) → lodgeResume s b = none)
    ∧ ((s.bank b).claim = .resume → s.holdsSlot (.bank b) = true →
      start s b = some (s.setBank b { s.bank b with
        activity := .erasing, openLine := none, claim := .none
        erase := some { e with suspended := false, lockout := 100 } })))

/-- The grant rule at a free bank: a bank that holds a slot for its claim starts ahead of every waiting access; a due verify
read goes next, a due supply-bound access without its slot lets nothing through, then the oldest read goes, then the oldest
verify read; with a suspended erase only reads go. A granted read leaves the list, is marked as served for a suspended
erase, and raises by 1, up to 8, the credit of every media access that waits, except under an erase context; a line hit
completes it at once, and otherwise its sense begins. A granted verify read makes its job ACTIVE and raises no credit. A
free supply slot goes to the oldest claim of the arbiter's list. What is due is done one thing after another; which comes
first among different units is the model's choice (logs 10, 11), and so is the number done at one event (log 13). -/
def Obligations.GrantRuleAndSlots : Prop :=
  (∀ (b : BankId) (s : State),
    let k := s.bank b
    (k.isFree = false → grant s b = none)
    ∧ (k.isFree = true → k.erase = none →
      (∀ n sector line credit, k.waiting.find? (fun a => a.isVerify && a.isDue) =
          some (.media (.verifyRead n sector line) credit) →
        grant s b = some (grantVerify b (fun a => a.isVerify && a.isDue) n sector line s))
      ∧ (k.waiting.any (fun a => a.isVerify && a.isDue) = false →
        (k.waiting.any (fun a => a.isSupplyBound && a.isDue) = true → s.holdsSlot (.bank b) = false → grant s b = none)
        ∧ (k.waiting.any (fun a => a.isSupplyBound && a.isDue) = false →
          (∀ a, k.waiting.find? Access.isRead = some (.read a) → grant s b = some (grantRead b a s))
          ∧ (k.waiting.any Access.isRead = false → ∀ n sector line credit,
            k.waiting.find? Access.isVerify = some (.media (.verifyRead n sector line) credit) →
              grant s b = some (grantVerify b Access.isVerify n sector line s)))))
    ∧ (k.isFree = true → k.erase.isSome = true →
      (∀ a, k.waiting.find? Access.isRead = some (.read a) → grant s b = some (grantRead b a s))
      ∧ (k.waiting.any Access.isRead = false → grant s b = none)))
  ∧ (∀ s : State,
    (s.claims = [] → grantSlot s = none)
    ∧ (s.slotA ≠ none → s.slotB ≠ none → grantSlot s = none)
    ∧ (∀ c rest, s.claims = c :: rest → s.slotA = none ∨ s.slotB = none →
        grantSlot s = some (giveSlot c { s with claims := rest })))
  ∧ (∀ (b : BankId) (a : ReadAccess) (s : State), a.dropped = false →
    let rest := (s.bank b).waiting.eraseP Access.isRead
    let waiting := if (s.bank b).erase = none then rest.map fun x => match x with
        | .media m credit => .media m (min 8 (credit + 1))
        | .read r => .read r
      else rest
    let granted := s.setBank b { s.bank b with waiting, erase := (s.bank b).erase.map fun e => { e with served := true } }
    ((s.bank b).openLine = some (a.sector, a.line) → grantRead b a s =
      respond a.port .ok (Memory.readN s.mem (a.sector * 65536 + a.line * 256 + a.first) a.length)
        (setReadMark a.port false (match a.entry with
          | some i => lowerReads i (if a.request = .fetch then granted.updImage i fun im => { im with accessed := true }
              else granted)
          | none => granted)))
    ∧ ((s.bank b).openLine ≠ some (a.sector, a.line) → grantRead b a s =
      granted.setBank b { granted.bank b with activity := .sensing (.read a) }))
  ∧ (∀ (b : BankId) (sel : Access → Bool) (n sector line : Nat) (s : State),
    let k := { s.bank b with waiting := (s.bank b).waiting.eraseP sel }
    let t := { s with jobs := s.jobs.map fun j : Job => if j.number = n then { j with active := true } else j }
    ((s.bank b).openLine = some (sector, line) → grantVerify b sel n sector line s =
      verifyReadDone n (Memory.readN s.mem (sector * 65536 + line * 256) 256) (t.setBank b k))
    ∧ ((s.bank b).openLine ≠ some (sector, line) → grantVerify b sel n sector line s =
      t.setBank b { k with activity := .sensing (.verify (some n) sector line) }))
  ∧ (∀ (b : BankId) (s t : State),
    ((s.bank b).isFree = false → start s b = none) ∧ (s.holdsSlot (.bank b) = false → start s b = none)
    ∧ (start s b = some t → (∀ d : BankId, d.pos < b.pos → start s d = none) → due s = some t)
    ∧ ((∀ d, start s d = none) → settingsStart s = none → grantSlot s = some t → due s = some t)
    ∧ ((∀ d, start s d = none) → settingsStart s = none → grantSlot s = none → (∀ d, lodgeResume s d = none) →
        grant s b = some t → (∀ d : BankId, d.pos < b.pos → grant s d = none) → due s = some t))
  ∧ (∀ s t : State, settle s = settleN 1000 s
    ∧ (due s = none → settle s = s)
    ∧ ∀ n, due s = some t → settleN (n + 1) s = settleN n t)

/-- The model's choice (log 2): an event of the flash that cannot come in a state changes nothing. A bank's event cannot come
in any activity but its own: a sense completion while no read is sensed, the events of a program sequence in another phase,
the ends of an erase while none runs, a suspend completion while none is under way, a lockout expiry with no lockout
remaining or where the erase times out first (log 19). An event of the settings store cannot come while no operation of
its kind runs, and one of the scanner not outside its stage or while RESET is asserted. -/
def Obligations.EventThatCannotComeChangesNothing : Prop :=
  (∀ (b : BankId) (s : State),
    let activity := (s.bank b).activity
    let runs := fun e : EraseContext => (s.bank b).erase = some e ∧ e.suspended = false
    ((∀ a, activity ≠ .sensing (.read a)) → (∀ j m n, activity ≠ .sensing (.verify j m n)) →
      exec (.senseCompletion b) s = .next s)
    ∧ ((∀ q, activity ≠ .programming q .blankCheck) → exec (.blankCheckCompletion b) s = .next s)
    ∧ ((∀ q n, activity ≠ .programming q (.program n)) →
      exec (.programCompletion b) s = .next s ∧ exec (.programTimeout b) s = .next s)
    ∧ ((∀ q, activity ≠ .programming q .readBack) → ∀ equal, exec (.readBackCompletion b equal) s = .next s)
    ∧ ((activity ≠ .erasing ∧ (∀ n, activity ≠ .suspending n)) ∨ (∀ e, ¬ runs e) →
      exec (.eraseCompletion b) s = .next s ∧ exec (.eraseTimeout b) s = .next s)
    ∧ ((∀ n, activity ≠ .suspending n) ∨ (∀ e, ¬ runs e) → exec (.suspendCompletion b) s = .next s)
    ∧ (activity ≠ .erasing ∨ (∀ e, runs e → e.lockout = 0 ∨ 2000000 ≤ e.runningTime + e.lockout) →
      exec (.lockoutExpiry b) s = .next s))
  ∧ ∀ s : State,
    ((∀ o, s.op = some o → o.running = false ∨ o.work.isErase = true) →
      (∀ equal, exec (.settingsProgramCompletion equal) s = .next s) ∧ exec .settingsProgramTimeout s = .next s)
    ∧ ((∀ o, s.op = some o → o.running = false ∨ o.work.isErase = false) →
      exec .settingsEraseCompletion s = .next s ∧ exec .settingsEraseTimeout s = .next s)
    ∧ (s.scanStage ≠ .readingSettings ∨ s.resetHeld = true → exec .settingsReadCompletion s = .next s)
    ∧ (s.scanStage ≠ .scanning ∨ s.resetHeld = true
        ∨ (s.bank (bankOf s.scanPosition)).activity ≠ .sensing (.scan s.scanPosition) →
      exec .scanSenseCompletion s = .next s)

/-! ## What every step keeps -/

/-- A command writes the array only where it is the end of a program phase or of an erase, or asserts RESET; and the settings
store only where it is the end of a settings-store operation, or asserts RESET. -/
def Obligations.FlashChangesOnlyAtItsEvents : Prop :=
  ∀ (c : Instr) (s t : State), exec c s = .next t → c ≠ .powerOn → c ≠ .resetAsserted →
    ((∀ b e, c ≠ .readBackCompletion b e) → (∀ b, c ≠ .programTimeout b) → (∀ b, c ≠ .eraseCompletion b) →
      (∀ b, c ≠ .eraseTimeout b) → t.mem = s.mem)
    ∧ ((∀ e, c ≠ .settingsProgramCompletion e) → c ≠ .settingsProgramTimeout → c ≠ .settingsEraseCompletion →
      c ≠ .settingsEraseTimeout → t.row = s.row ∧ t.boot = s.boot)

/-- Every step keeps memory, the boot area and every table in canonical form, which is the model's own choice of form (log
20). -/
def Obligations.EveryStepKeepsTheCanonicalForm : Prop :=
  ∀ s t : State, s.Canonical → step s = .next t → t.Canonical

/-- Every step keeps the bounds of the port units: queues of at most 4, at most 8 frames not begun, a request in service
only at a READY port with room for its response, no table, cause or request at a client port that is not READY; and the
levels of the client ports and of their boot-entry copies at most 3. -/
def Obligations.EveryStepKeepsThePortsLegal : Prop :=
  (∀ s t : State, s.PortsLegal → step s = .next t → t.PortsLegal)
  ∧ (∀ s t : State, s.LevelsLegal → step s = .next t → t.LevelsLegal)

/-- Every step keeps each bank record in agreement with its activity, credits at most 8 and lockouts at most 100. -/
def Obligations.EveryStepKeepsTheBanksLegal : Prop :=
  ∀ s t : State, s.BanksLegal → step s = .next t → t.BanksLegal

/-- Every step keeps the rule of the programming supply: whoever programs or erases holds a slot, so that at most two do. -/
def Obligations.AtMostTwoProgramOrErase : Prop :=
  (∀ s t : State, s.Supplied → step s = .next t → t.Supplied) ∧ ∀ s : State, s.Supplied → powered s ≤ 2

/-- Once the lock mark reads other than 0xFF, no step unlocks the boot area or changes a boot entry. -/
def Obligations.LockedBootAreaStaysAsItIs : Prop :=
  ∀ s t : State, s.Canonical → s.Locked → step s = .next t →
    t.Locked ∧ ∀ a, a ≠ lockMarkAddress → Memory.read t.boot a = Memory.read s.boot a
end

