-- ==== Sys2Proof/Laws/State.lean ====
section
/-! SUPPORT. One lemma per field per update of the state: a named update changes its own field and no other; and what the
banks, client units and ports read after an update. -/

namespace Sys2Proof.Machine

variable (s : State)

/-! ### setBank -/

@[simp] theorem setBank_mem (b : BankId) (v : Bank) : (s.setBank b v).mem = s.mem := rfl
@[simp] theorem setBank_row (b : BankId) (v : Bank) : (s.setBank b v).row = s.row := rfl
@[simp] theorem setBank_boot (b : BankId) (v : Bank) : (s.setBank b v).boot = s.boot := rfl
@[simp] theorem setBank_dir (b : BankId) (v : Bank) : (s.setBank b v).dir = s.dir := rfl
@[simp] theorem setBank_sectors (b : BankId) (v : Bank) : (s.setBank b v).sectors = s.sectors := rfl
@[simp] theorem setBank_rowCopy (b : BankId) (v : Bank) : (s.setBank b v).rowCopy = s.rowCopy := rfl
@[simp] theorem setBank_mgmt (b : BankId) (v : Bank) : (s.setBank b v).mgmt = s.mgmt := rfl
@[simp] theorem setBank_clients (b : BankId) (v : Bank) : (s.setBank b v).clients = s.clients := rfl
@[simp] theorem setBank_slotA (b : BankId) (v : Bank) : (s.setBank b v).slotA = s.slotA := rfl
@[simp] theorem setBank_slotB (b : BankId) (v : Bank) : (s.setBank b v).slotB = s.slotB := rfl
@[simp] theorem setBank_claims (b : BankId) (v : Bank) : (s.setBank b v).claims = s.claims := rfl
@[simp] theorem setBank_jobs (b : BankId) (v : Bank) : (s.setBank b v).jobs = s.jobs := rfl
@[simp] theorem setBank_lastOutcomes (b : BankId) (v : Bank) : (s.setBank b v).lastOutcomes = s.lastOutcomes := rfl
@[simp] theorem setBank_lockInForce (b : BankId) (v : Bank) : (s.setBank b v).lockInForce = s.lockInForce := rfl
@[simp] theorem setBank_op (b : BankId) (v : Bank) : (s.setBank b v).op = s.op := rfl
@[simp] theorem setBank_scanStage (b : BankId) (v : Bank) : (s.setBank b v).scanStage = s.scanStage := rfl
@[simp] theorem setBank_scanPosition (b : BankId) (v : Bank) : (s.setBank b v).scanPosition = s.scanPosition := rfl
@[simp] theorem setBank_nextIndex (b : BankId) (v : Bank) : (s.setBank b v).nextIndex = s.nextIndex := rfl
@[simp] theorem setBank_resetHeld (b : BankId) (v : Bank) : (s.setBank b v).resetHeld = s.resetHeld := rfl
@[simp] theorem setBank_wpHigh (b : BankId) (v : Bank) : (s.setBank b v).wpHigh = s.wpHigh := rfl
@[simp] theorem setBank_freeCount (b : BankId) (v : Bank) : (s.setBank b v).freeCount = s.freeCount := rfl
@[simp] theorem setBank_pending (b : BankId) (v : Bank) : (s.setBank b v).pending = s.pending := rfl

/-! ### setClient -/

@[simp] theorem setClient_mem (c : ClientId) (v : ClientUnit) : (s.setClient c v).mem = s.mem := rfl
@[simp] theorem setClient_row (c : ClientId) (v : ClientUnit) : (s.setClient c v).row = s.row := rfl
@[simp] theorem setClient_boot (c : ClientId) (v : ClientUnit) : (s.setClient c v).boot = s.boot := rfl
@[simp] theorem setClient_dir (c : ClientId) (v : ClientUnit) : (s.setClient c v).dir = s.dir := rfl
@[simp] theorem setClient_sectors (c : ClientId) (v : ClientUnit) : (s.setClient c v).sectors = s.sectors := rfl
@[simp] theorem setClient_rowCopy (c : ClientId) (v : ClientUnit) : (s.setClient c v).rowCopy = s.rowCopy := rfl
@[simp] theorem setClient_mgmt (c : ClientId) (v : ClientUnit) : (s.setClient c v).mgmt = s.mgmt := rfl
@[simp] theorem setClient_banks (c : ClientId) (v : ClientUnit) : (s.setClient c v).banks = s.banks := rfl
@[simp] theorem setClient_slotA (c : ClientId) (v : ClientUnit) : (s.setClient c v).slotA = s.slotA := rfl
@[simp] theorem setClient_slotB (c : ClientId) (v : ClientUnit) : (s.setClient c v).slotB = s.slotB := rfl
@[simp] theorem setClient_claims (c : ClientId) (v : ClientUnit) : (s.setClient c v).claims = s.claims := rfl
@[simp] theorem setClient_jobs (c : ClientId) (v : ClientUnit) : (s.setClient c v).jobs = s.jobs := rfl
@[simp] theorem setClient_lastOutcomes (c : ClientId) (v : ClientUnit) : (s.setClient c v).lastOutcomes = s.lastOutcomes := rfl
@[simp] theorem setClient_lockInForce (c : ClientId) (v : ClientUnit) : (s.setClient c v).lockInForce = s.lockInForce := rfl
@[simp] theorem setClient_op (c : ClientId) (v : ClientUnit) : (s.setClient c v).op = s.op := rfl
@[simp] theorem setClient_scanStage (c : ClientId) (v : ClientUnit) : (s.setClient c v).scanStage = s.scanStage := rfl
@[simp] theorem setClient_scanPosition (c : ClientId) (v : ClientUnit) : (s.setClient c v).scanPosition = s.scanPosition := rfl
@[simp] theorem setClient_nextIndex (c : ClientId) (v : ClientUnit) : (s.setClient c v).nextIndex = s.nextIndex := rfl
@[simp] theorem setClient_resetHeld (c : ClientId) (v : ClientUnit) : (s.setClient c v).resetHeld = s.resetHeld := rfl
@[simp] theorem setClient_wpHigh (c : ClientId) (v : ClientUnit) : (s.setClient c v).wpHigh = s.wpHigh := rfl
@[simp] theorem setClient_freeCount (c : ClientId) (v : ClientUnit) : (s.setClient c v).freeCount = s.freeCount := rfl
@[simp] theorem setClient_pending (c : ClientId) (v : ClientUnit) : (s.setClient c v).pending = s.pending := rfl

/-! ### setImage -/

@[simp] theorem setImage_mem (i : Nat) (o : Option Image) : (s.setImage i o).mem = s.mem := rfl
@[simp] theorem setImage_row (i : Nat) (o : Option Image) : (s.setImage i o).row = s.row := rfl
@[simp] theorem setImage_boot (i : Nat) (o : Option Image) : (s.setImage i o).boot = s.boot := rfl
@[simp] theorem setImage_sectors (i : Nat) (o : Option Image) : (s.setImage i o).sectors = s.sectors := rfl
@[simp] theorem setImage_rowCopy (i : Nat) (o : Option Image) : (s.setImage i o).rowCopy = s.rowCopy := rfl
@[simp] theorem setImage_mgmt (i : Nat) (o : Option Image) : (s.setImage i o).mgmt = s.mgmt := rfl
@[simp] theorem setImage_clients (i : Nat) (o : Option Image) : (s.setImage i o).clients = s.clients := rfl
@[simp] theorem setImage_banks (i : Nat) (o : Option Image) : (s.setImage i o).banks = s.banks := rfl
@[simp] theorem setImage_slotA (i : Nat) (o : Option Image) : (s.setImage i o).slotA = s.slotA := rfl
@[simp] theorem setImage_slotB (i : Nat) (o : Option Image) : (s.setImage i o).slotB = s.slotB := rfl
@[simp] theorem setImage_claims (i : Nat) (o : Option Image) : (s.setImage i o).claims = s.claims := rfl
@[simp] theorem setImage_jobs (i : Nat) (o : Option Image) : (s.setImage i o).jobs = s.jobs := rfl
@[simp] theorem setImage_lastOutcomes (i : Nat) (o : Option Image) : (s.setImage i o).lastOutcomes = s.lastOutcomes := rfl
@[simp] theorem setImage_lockInForce (i : Nat) (o : Option Image) : (s.setImage i o).lockInForce = s.lockInForce := rfl
@[simp] theorem setImage_op (i : Nat) (o : Option Image) : (s.setImage i o).op = s.op := rfl
@[simp] theorem setImage_scanStage (i : Nat) (o : Option Image) : (s.setImage i o).scanStage = s.scanStage := rfl
@[simp] theorem setImage_scanPosition (i : Nat) (o : Option Image) : (s.setImage i o).scanPosition = s.scanPosition := rfl
@[simp] theorem setImage_nextIndex (i : Nat) (o : Option Image) : (s.setImage i o).nextIndex = s.nextIndex := rfl
@[simp] theorem setImage_resetHeld (i : Nat) (o : Option Image) : (s.setImage i o).resetHeld = s.resetHeld := rfl
@[simp] theorem setImage_wpHigh (i : Nat) (o : Option Image) : (s.setImage i o).wpHigh = s.wpHigh := rfl
@[simp] theorem setImage_freeCount (i : Nat) (o : Option Image) : (s.setImage i o).freeCount = s.freeCount := rfl
@[simp] theorem setImage_pending (i : Nat) (o : Option Image) : (s.setImage i o).pending = s.pending := rfl

/-! ### updSector -/

@[simp] theorem updSector_mem (n : Nat) (f : SectorRecord → SectorRecord) : (s.updSector n f).mem = s.mem := rfl
@[simp] theorem updSector_row (n : Nat) (f : SectorRecord → SectorRecord) : (s.updSector n f).row = s.row := rfl
@[simp] theorem updSector_boot (n : Nat) (f : SectorRecord → SectorRecord) : (s.updSector n f).boot = s.boot := rfl
@[simp] theorem updSector_dir (n : Nat) (f : SectorRecord → SectorRecord) : (s.updSector n f).dir = s.dir := rfl
@[simp] theorem updSector_rowCopy (n : Nat) (f : SectorRecord → SectorRecord) : (s.updSector n f).rowCopy = s.rowCopy := rfl
@[simp] theorem updSector_mgmt (n : Nat) (f : SectorRecord → SectorRecord) : (s.updSector n f).mgmt = s.mgmt := rfl
@[simp] theorem updSector_clients (n : Nat) (f : SectorRecord → SectorRecord) : (s.updSector n f).clients = s.clients := rfl
@[simp] theorem updSector_banks (n : Nat) (f : SectorRecord → SectorRecord) : (s.updSector n f).banks = s.banks := rfl
@[simp] theorem updSector_slotA (n : Nat) (f : SectorRecord → SectorRecord) : (s.updSector n f).slotA = s.slotA := rfl
@[simp] theorem updSector_slotB (n : Nat) (f : SectorRecord → SectorRecord) : (s.updSector n f).slotB = s.slotB := rfl
@[simp] theorem updSector_claims (n : Nat) (f : SectorRecord → SectorRecord) : (s.updSector n f).claims = s.claims := rfl
@[simp] theorem updSector_jobs (n : Nat) (f : SectorRecord → SectorRecord) : (s.updSector n f).jobs = s.jobs := rfl
@[simp] theorem updSector_lastOutcomes (n : Nat) (f : SectorRecord → SectorRecord) : (s.updSector n f).lastOutcomes = s.lastOutcomes := rfl
@[simp] theorem updSector_lockInForce (n : Nat) (f : SectorRecord → SectorRecord) : (s.updSector n f).lockInForce = s.lockInForce := rfl
@[simp] theorem updSector_op (n : Nat) (f : SectorRecord → SectorRecord) : (s.updSector n f).op = s.op := rfl
@[simp] theorem updSector_scanStage (n : Nat) (f : SectorRecord → SectorRecord) : (s.updSector n f).scanStage = s.scanStage := rfl
@[simp] theorem updSector_scanPosition (n : Nat) (f : SectorRecord → SectorRecord) : (s.updSector n f).scanPosition = s.scanPosition := rfl
@[simp] theorem updSector_nextIndex (n : Nat) (f : SectorRecord → SectorRecord) : (s.updSector n f).nextIndex = s.nextIndex := rfl
@[simp] theorem updSector_resetHeld (n : Nat) (f : SectorRecord → SectorRecord) : (s.updSector n f).resetHeld = s.resetHeld := rfl
@[simp] theorem updSector_wpHigh (n : Nat) (f : SectorRecord → SectorRecord) : (s.updSector n f).wpHigh = s.wpHigh := rfl
@[simp] theorem updSector_freeCount (n : Nat) (f : SectorRecord → SectorRecord) : (s.updSector n f).freeCount = s.freeCount := rfl
@[simp] theorem updSector_pending (n : Nat) (f : SectorRecord → SectorRecord) : (s.updSector n f).pending = s.pending := rfl

/-! ### updExtent -/

@[simp] theorem updExtent_mem (a n : Nat) (f : SectorRecord → SectorRecord) : (s.updExtent a n f).mem = s.mem := rfl
@[simp] theorem updExtent_row (a n : Nat) (f : SectorRecord → SectorRecord) : (s.updExtent a n f).row = s.row := rfl
@[simp] theorem updExtent_boot (a n : Nat) (f : SectorRecord → SectorRecord) : (s.updExtent a n f).boot = s.boot := rfl
@[simp] theorem updExtent_dir (a n : Nat) (f : SectorRecord → SectorRecord) : (s.updExtent a n f).dir = s.dir := rfl
@[simp] theorem updExtent_rowCopy (a n : Nat) (f : SectorRecord → SectorRecord) : (s.updExtent a n f).rowCopy = s.rowCopy := rfl
@[simp] theorem updExtent_mgmt (a n : Nat) (f : SectorRecord → SectorRecord) : (s.updExtent a n f).mgmt = s.mgmt := rfl
@[simp] theorem updExtent_clients (a n : Nat) (f : SectorRecord → SectorRecord) : (s.updExtent a n f).clients = s.clients := rfl
@[simp] theorem updExtent_banks (a n : Nat) (f : SectorRecord → SectorRecord) : (s.updExtent a n f).banks = s.banks := rfl
@[simp] theorem updExtent_slotA (a n : Nat) (f : SectorRecord → SectorRecord) : (s.updExtent a n f).slotA = s.slotA := rfl
@[simp] theorem updExtent_slotB (a n : Nat) (f : SectorRecord → SectorRecord) : (s.updExtent a n f).slotB = s.slotB := rfl
@[simp] theorem updExtent_claims (a n : Nat) (f : SectorRecord → SectorRecord) : (s.updExtent a n f).claims = s.claims := rfl
@[simp] theorem updExtent_jobs (a n : Nat) (f : SectorRecord → SectorRecord) : (s.updExtent a n f).jobs = s.jobs := rfl
@[simp] theorem updExtent_lastOutcomes (a n : Nat) (f : SectorRecord → SectorRecord) : (s.updExtent a n f).lastOutcomes = s.lastOutcomes := rfl
@[simp] theorem updExtent_lockInForce (a n : Nat) (f : SectorRecord → SectorRecord) : (s.updExtent a n f).lockInForce = s.lockInForce := rfl
@[simp] theorem updExtent_op (a n : Nat) (f : SectorRecord → SectorRecord) : (s.updExtent a n f).op = s.op := rfl
@[simp] theorem updExtent_scanStage (a n : Nat) (f : SectorRecord → SectorRecord) : (s.updExtent a n f).scanStage = s.scanStage := rfl
@[simp] theorem updExtent_scanPosition (a n : Nat) (f : SectorRecord → SectorRecord) : (s.updExtent a n f).scanPosition = s.scanPosition := rfl
@[simp] theorem updExtent_nextIndex (a n : Nat) (f : SectorRecord → SectorRecord) : (s.updExtent a n f).nextIndex = s.nextIndex := rfl
@[simp] theorem updExtent_resetHeld (a n : Nat) (f : SectorRecord → SectorRecord) : (s.updExtent a n f).resetHeld = s.resetHeld := rfl
@[simp] theorem updExtent_wpHigh (a n : Nat) (f : SectorRecord → SectorRecord) : (s.updExtent a n f).wpHigh = s.wpHigh := rfl
@[simp] theorem updExtent_freeCount (a n : Nat) (f : SectorRecord → SectorRecord) : (s.updExtent a n f).freeCount = s.freeCount := rfl
@[simp] theorem updExtent_pending (a n : Nat) (f : SectorRecord → SectorRecord) : (s.updExtent a n f).pending = s.pending := rfl

/-! ### updJob -/

@[simp] theorem updJob_mem (n : Nat) (f : Job → Job) : (s.updJob n f).mem = s.mem := rfl
@[simp] theorem updJob_row (n : Nat) (f : Job → Job) : (s.updJob n f).row = s.row := rfl
@[simp] theorem updJob_boot (n : Nat) (f : Job → Job) : (s.updJob n f).boot = s.boot := rfl
@[simp] theorem updJob_dir (n : Nat) (f : Job → Job) : (s.updJob n f).dir = s.dir := rfl
@[simp] theorem updJob_sectors (n : Nat) (f : Job → Job) : (s.updJob n f).sectors = s.sectors := rfl
@[simp] theorem updJob_rowCopy (n : Nat) (f : Job → Job) : (s.updJob n f).rowCopy = s.rowCopy := rfl
@[simp] theorem updJob_mgmt (n : Nat) (f : Job → Job) : (s.updJob n f).mgmt = s.mgmt := rfl
@[simp] theorem updJob_clients (n : Nat) (f : Job → Job) : (s.updJob n f).clients = s.clients := rfl
@[simp] theorem updJob_banks (n : Nat) (f : Job → Job) : (s.updJob n f).banks = s.banks := rfl
@[simp] theorem updJob_slotA (n : Nat) (f : Job → Job) : (s.updJob n f).slotA = s.slotA := rfl
@[simp] theorem updJob_slotB (n : Nat) (f : Job → Job) : (s.updJob n f).slotB = s.slotB := rfl
@[simp] theorem updJob_claims (n : Nat) (f : Job → Job) : (s.updJob n f).claims = s.claims := rfl
@[simp] theorem updJob_lastOutcomes (n : Nat) (f : Job → Job) : (s.updJob n f).lastOutcomes = s.lastOutcomes := rfl
@[simp] theorem updJob_lockInForce (n : Nat) (f : Job → Job) : (s.updJob n f).lockInForce = s.lockInForce := rfl
@[simp] theorem updJob_op (n : Nat) (f : Job → Job) : (s.updJob n f).op = s.op := rfl
@[simp] theorem updJob_scanStage (n : Nat) (f : Job → Job) : (s.updJob n f).scanStage = s.scanStage := rfl
@[simp] theorem updJob_scanPosition (n : Nat) (f : Job → Job) : (s.updJob n f).scanPosition = s.scanPosition := rfl
@[simp] theorem updJob_nextIndex (n : Nat) (f : Job → Job) : (s.updJob n f).nextIndex = s.nextIndex := rfl
@[simp] theorem updJob_resetHeld (n : Nat) (f : Job → Job) : (s.updJob n f).resetHeld = s.resetHeld := rfl
@[simp] theorem updJob_wpHigh (n : Nat) (f : Job → Job) : (s.updJob n f).wpHigh = s.wpHigh := rfl
@[simp] theorem updJob_freeCount (n : Nat) (f : Job → Job) : (s.updJob n f).freeCount = s.freeCount := rfl
@[simp] theorem updJob_pending (n : Nat) (f : Job → Job) : (s.updJob n f).pending = s.pending := rfl

/-! ### releaseSlot -/

@[simp] theorem releaseSlot_mem (c : Claimant) : (releaseSlot c s).mem = s.mem := rfl
@[simp] theorem releaseSlot_row (c : Claimant) : (releaseSlot c s).row = s.row := rfl
@[simp] theorem releaseSlot_boot (c : Claimant) : (releaseSlot c s).boot = s.boot := rfl
@[simp] theorem releaseSlot_dir (c : Claimant) : (releaseSlot c s).dir = s.dir := rfl
@[simp] theorem releaseSlot_sectors (c : Claimant) : (releaseSlot c s).sectors = s.sectors := rfl
@[simp] theorem releaseSlot_rowCopy (c : Claimant) : (releaseSlot c s).rowCopy = s.rowCopy := rfl
@[simp] theorem releaseSlot_mgmt (c : Claimant) : (releaseSlot c s).mgmt = s.mgmt := rfl
@[simp] theorem releaseSlot_clients (c : Claimant) : (releaseSlot c s).clients = s.clients := rfl
@[simp] theorem releaseSlot_banks (c : Claimant) : (releaseSlot c s).banks = s.banks := rfl
@[simp] theorem releaseSlot_claims (c : Claimant) : (releaseSlot c s).claims = s.claims := rfl
@[simp] theorem releaseSlot_jobs (c : Claimant) : (releaseSlot c s).jobs = s.jobs := rfl
@[simp] theorem releaseSlot_lastOutcomes (c : Claimant) : (releaseSlot c s).lastOutcomes = s.lastOutcomes := rfl
@[simp] theorem releaseSlot_lockInForce (c : Claimant) : (releaseSlot c s).lockInForce = s.lockInForce := rfl
@[simp] theorem releaseSlot_op (c : Claimant) : (releaseSlot c s).op = s.op := rfl
@[simp] theorem releaseSlot_scanStage (c : Claimant) : (releaseSlot c s).scanStage = s.scanStage := rfl
@[simp] theorem releaseSlot_scanPosition (c : Claimant) : (releaseSlot c s).scanPosition = s.scanPosition := rfl
@[simp] theorem releaseSlot_nextIndex (c : Claimant) : (releaseSlot c s).nextIndex = s.nextIndex := rfl
@[simp] theorem releaseSlot_resetHeld (c : Claimant) : (releaseSlot c s).resetHeld = s.resetHeld := rfl
@[simp] theorem releaseSlot_wpHigh (c : Claimant) : (releaseSlot c s).wpHigh = s.wpHigh := rfl
@[simp] theorem releaseSlot_freeCount (c : Claimant) : (releaseSlot c s).freeCount = s.freeCount := rfl
@[simp] theorem releaseSlot_pending (c : Claimant) : (releaseSlot c s).pending = s.pending := rfl

/-! ### lodge -/

@[simp] theorem lodge_mem (c : Claimant) : (lodge c s).mem = s.mem := rfl
@[simp] theorem lodge_row (c : Claimant) : (lodge c s).row = s.row := rfl
@[simp] theorem lodge_boot (c : Claimant) : (lodge c s).boot = s.boot := rfl
@[simp] theorem lodge_dir (c : Claimant) : (lodge c s).dir = s.dir := rfl
@[simp] theorem lodge_sectors (c : Claimant) : (lodge c s).sectors = s.sectors := rfl
@[simp] theorem lodge_rowCopy (c : Claimant) : (lodge c s).rowCopy = s.rowCopy := rfl
@[simp] theorem lodge_mgmt (c : Claimant) : (lodge c s).mgmt = s.mgmt := rfl
@[simp] theorem lodge_clients (c : Claimant) : (lodge c s).clients = s.clients := rfl
@[simp] theorem lodge_banks (c : Claimant) : (lodge c s).banks = s.banks := rfl
@[simp] theorem lodge_slotA (c : Claimant) : (lodge c s).slotA = s.slotA := rfl
@[simp] theorem lodge_slotB (c : Claimant) : (lodge c s).slotB = s.slotB := rfl
@[simp] theorem lodge_jobs (c : Claimant) : (lodge c s).jobs = s.jobs := rfl
@[simp] theorem lodge_lastOutcomes (c : Claimant) : (lodge c s).lastOutcomes = s.lastOutcomes := rfl
@[simp] theorem lodge_lockInForce (c : Claimant) : (lodge c s).lockInForce = s.lockInForce := rfl
@[simp] theorem lodge_op (c : Claimant) : (lodge c s).op = s.op := rfl
@[simp] theorem lodge_scanStage (c : Claimant) : (lodge c s).scanStage = s.scanStage := rfl
@[simp] theorem lodge_scanPosition (c : Claimant) : (lodge c s).scanPosition = s.scanPosition := rfl
@[simp] theorem lodge_nextIndex (c : Claimant) : (lodge c s).nextIndex = s.nextIndex := rfl
@[simp] theorem lodge_resetHeld (c : Claimant) : (lodge c s).resetHeld = s.resetHeld := rfl
@[simp] theorem lodge_wpHigh (c : Claimant) : (lodge c s).wpHigh = s.wpHigh := rfl
@[simp] theorem lodge_freeCount (c : Claimant) : (lodge c s).freeCount = s.freeCount := rfl
@[simp] theorem lodge_pending (c : Claimant) : (lodge c s).pending = s.pending := rfl

/-! ### setPort -/

@[simp] theorem setPort_mem (p : Port) (u : PortUnit) : (s.setPort p u).mem = s.mem := by cases p <;> rfl
@[simp] theorem setPort_row (p : Port) (u : PortUnit) : (s.setPort p u).row = s.row := by cases p <;> rfl
@[simp] theorem setPort_boot (p : Port) (u : PortUnit) : (s.setPort p u).boot = s.boot := by cases p <;> rfl
@[simp] theorem setPort_dir (p : Port) (u : PortUnit) : (s.setPort p u).dir = s.dir := by cases p <;> rfl
@[simp] theorem setPort_sectors (p : Port) (u : PortUnit) : (s.setPort p u).sectors = s.sectors := by cases p <;> rfl
@[simp] theorem setPort_rowCopy (p : Port) (u : PortUnit) : (s.setPort p u).rowCopy = s.rowCopy := by cases p <;> rfl
@[simp] theorem setPort_banks (p : Port) (u : PortUnit) : (s.setPort p u).banks = s.banks := by cases p <;> rfl
@[simp] theorem setPort_slotA (p : Port) (u : PortUnit) : (s.setPort p u).slotA = s.slotA := by cases p <;> rfl
@[simp] theorem setPort_slotB (p : Port) (u : PortUnit) : (s.setPort p u).slotB = s.slotB := by cases p <;> rfl
@[simp] theorem setPort_claims (p : Port) (u : PortUnit) : (s.setPort p u).claims = s.claims := by cases p <;> rfl
@[simp] theorem setPort_jobs (p : Port) (u : PortUnit) : (s.setPort p u).jobs = s.jobs := by cases p <;> rfl
@[simp] theorem setPort_lastOutcomes (p : Port) (u : PortUnit) : (s.setPort p u).lastOutcomes = s.lastOutcomes := by cases p <;> rfl
@[simp] theorem setPort_lockInForce (p : Port) (u : PortUnit) : (s.setPort p u).lockInForce = s.lockInForce := by cases p <;> rfl
@[simp] theorem setPort_op (p : Port) (u : PortUnit) : (s.setPort p u).op = s.op := by cases p <;> rfl
@[simp] theorem setPort_scanStage (p : Port) (u : PortUnit) : (s.setPort p u).scanStage = s.scanStage := by cases p <;> rfl
@[simp] theorem setPort_scanPosition (p : Port) (u : PortUnit) : (s.setPort p u).scanPosition = s.scanPosition := by cases p <;> rfl
@[simp] theorem setPort_nextIndex (p : Port) (u : PortUnit) : (s.setPort p u).nextIndex = s.nextIndex := by cases p <;> rfl
@[simp] theorem setPort_resetHeld (p : Port) (u : PortUnit) : (s.setPort p u).resetHeld = s.resetHeld := by cases p <;> rfl
@[simp] theorem setPort_wpHigh (p : Port) (u : PortUnit) : (s.setPort p u).wpHigh = s.wpHigh := by cases p <;> rfl
@[simp] theorem setPort_freeCount (p : Port) (u : PortUnit) : (s.setPort p u).freeCount = s.freeCount := by cases p <;> rfl
@[simp] theorem setPort_pending (p : Port) (u : PortUnit) : (s.setPort p u).pending = s.pending := by cases p <;> rfl

/-! ### updImage -/

@[simp] theorem updImage_mem (i : Nat) (f : Image → Image) : (s.updImage i f).mem = s.mem := by
  unfold State.updImage; split <;> rfl
@[simp] theorem updImage_row (i : Nat) (f : Image → Image) : (s.updImage i f).row = s.row := by
  unfold State.updImage; split <;> rfl
@[simp] theorem updImage_boot (i : Nat) (f : Image → Image) : (s.updImage i f).boot = s.boot := by
  unfold State.updImage; split <;> rfl
@[simp] theorem updImage_sectors (i : Nat) (f : Image → Image) : (s.updImage i f).sectors = s.sectors := by
  unfold State.updImage; split <;> rfl
@[simp] theorem updImage_rowCopy (i : Nat) (f : Image → Image) : (s.updImage i f).rowCopy = s.rowCopy := by
  unfold State.updImage; split <;> rfl
@[simp] theorem updImage_mgmt (i : Nat) (f : Image → Image) : (s.updImage i f).mgmt = s.mgmt := by
  unfold State.updImage; split <;> rfl
@[simp] theorem updImage_clients (i : Nat) (f : Image → Image) : (s.updImage i f).clients = s.clients := by
  unfold State.updImage; split <;> rfl
@[simp] theorem updImage_banks (i : Nat) (f : Image → Image) : (s.updImage i f).banks = s.banks := by
  unfold State.updImage; split <;> rfl
@[simp] theorem updImage_slotA (i : Nat) (f : Image → Image) : (s.updImage i f).slotA = s.slotA := by
  unfold State.updImage; split <;> rfl
@[simp] theorem updImage_slotB (i : Nat) (f : Image → Image) : (s.updImage i f).slotB = s.slotB := by
  unfold State.updImage; split <;> rfl
@[simp] theorem updImage_claims (i : Nat) (f : Image → Image) : (s.updImage i f).claims = s.claims := by
  unfold State.updImage; split <;> rfl
@[simp] theorem updImage_jobs (i : Nat) (f : Image → Image) : (s.updImage i f).jobs = s.jobs := by
  unfold State.updImage; split <;> rfl
@[simp] theorem updImage_lastOutcomes (i : Nat) (f : Image → Image) : (s.updImage i f).lastOutcomes = s.lastOutcomes := by
  unfold State.updImage; split <;> rfl
@[simp] theorem updImage_lockInForce (i : Nat) (f : Image → Image) : (s.updImage i f).lockInForce = s.lockInForce := by
  unfold State.updImage; split <;> rfl
@[simp] theorem updImage_op (i : Nat) (f : Image → Image) : (s.updImage i f).op = s.op := by
  unfold State.updImage; split <;> rfl
@[simp] theorem updImage_scanStage (i : Nat) (f : Image → Image) : (s.updImage i f).scanStage = s.scanStage := by
  unfold State.updImage; split <;> rfl
@[simp] theorem updImage_scanPosition (i : Nat) (f : Image → Image) : (s.updImage i f).scanPosition = s.scanPosition := by
  unfold State.updImage; split <;> rfl
@[simp] theorem updImage_nextIndex (i : Nat) (f : Image → Image) : (s.updImage i f).nextIndex = s.nextIndex := by
  unfold State.updImage; split <;> rfl
@[simp] theorem updImage_resetHeld (i : Nat) (f : Image → Image) : (s.updImage i f).resetHeld = s.resetHeld := by
  unfold State.updImage; split <;> rfl
@[simp] theorem updImage_wpHigh (i : Nat) (f : Image → Image) : (s.updImage i f).wpHigh = s.wpHigh := by
  unfold State.updImage; split <;> rfl
@[simp] theorem updImage_freeCount (i : Nat) (f : Image → Image) : (s.updImage i f).freeCount = s.freeCount := by
  unfold State.updImage; split <;> rfl
@[simp] theorem updImage_pending (i : Nat) (f : Image → Image) : (s.updImage i f).pending = s.pending := by
  unfold State.updImage; split <;> rfl

/-! ### Reading what was written -/

@[simp] theorem Quad.get_set_same {α : Type} (q : Quad α) (i : Four) (v : α) : (q.set i v).get i = v := by
  cases i <;> rfl

theorem Quad.get_set_ne {α : Type} (q : Quad α) {i j : Four} (v : α) (h : j ≠ i) : (q.set i v).get j = q.get j := by
  cases i <;> cases j <;> first | rfl | exact absurd rfl h

@[simp] theorem Quad.get_map {α : Type} (q : Quad α) (f : Four → α → α) (i : Four) : (q.map f).get i = f i (q.get i) := by
  cases i <;> rfl

@[simp] theorem Quad.set_get {α : Type} (q : Quad α) (i : Four) : q.set i (q.get i) = q := by
  cases i <;> rfl

@[simp] theorem Quad.set_set {α : Type} (q : Quad α) (i : Four) (v w : α) : (q.set i v).set i w = q.set i w := by
  cases i <;> rfl

/-- A collection of four is fixed by its members. -/
theorem Quad.ext {α : Type} {q r : Quad α} (h : ∀ i, q.get i = r.get i) : q = r := by
  obtain ⟨a, b, c, d⟩ := q
  have h0 := h .zero
  have h1 := h .one
  have h2 := h .two
  have h3 := h .three
  simp only [Quad.get] at h0 h1 h2 h3
  subst h0; subst h1; subst h2; subst h3
  rfl

@[simp] theorem bank_setBank_same (b : BankId) (v : Bank) : (s.setBank b v).bank b = v := Quad.get_set_same _ _ _

theorem bank_setBank_ne {b b' : BankId} (v : Bank) (h : b' ≠ b) : (s.setBank b v).bank b' = s.bank b' :=
  Quad.get_set_ne _ _ h

/-- A bank after any bank is set. -/
theorem bank_setBank (b b' : BankId) (v : Bank) : (s.setBank b v).bank b' = if b' = b then v else s.bank b' := by
  split
  · subst b'; exact bank_setBank_same s b v
  · exact bank_setBank_ne s v ‹_›

@[simp] theorem setBank_setBank (b : BankId) (v w : Bank) : (s.setBank b v).setBank b w = s.setBank b w := by
  simp only [State.setBank, Quad.set_set]

@[simp] theorem client_setClient_same (c : ClientId) (v : ClientUnit) : (s.setClient c v).client c = v :=
  Quad.get_set_same _ _ _

theorem client_setClient_ne {c c' : ClientId} (v : ClientUnit) (h : c' ≠ c) :
    (s.setClient c v).client c' = s.client c' := Quad.get_set_ne _ _ h

/-- A client unit after any client unit is set. -/
theorem client_setClient (c c' : ClientId) (v : ClientUnit) :
    (s.setClient c v).client c' = if c' = c then v else s.client c' := by
  split
  · subst c'; exact client_setClient_same s c v
  · exact client_setClient_ne s v ‹_›

@[simp] theorem setClient_setClient (c : ClientId) (v w : ClientUnit) :
    (s.setClient c v).setClient c w = s.setClient c w := by
  simp only [State.setClient, Quad.set_set]

@[simp] theorem setClient_client (c : ClientId) : s.setClient c (s.client c) = s := by
  simp only [State.setClient, State.client, Quad.set_get]

@[simp] theorem setBank_bank (b : BankId) : s.setBank b (s.bank b) = s := by
  simp only [State.setBank, State.bank, Quad.set_get]

@[simp] theorem port_setPort_same (p : Port) (u : PortUnit) : (s.setPort p u).port p = u := by
  cases p
  · rfl
  · simp only [State.port, State.setPort, client_setClient_same]

theorem port_setPort_ne {p q : Port} (u : PortUnit) (h : q ≠ p) : (s.setPort p u).port q = s.port q := by
  cases p <;> cases q
  · exact absurd rfl h
  · rfl
  · rfl
  · rename_i c d
    have hd : d ≠ c := fun e => h (by rw [e])
    simp only [State.port, State.setPort, client_setClient_ne _ _ hd]

/-- A port after any port is set. -/
theorem port_setPort (p q : Port) (u : PortUnit) : (s.setPort p u).port q = if q = p then u else s.port q := by
  split
  · subst q; exact port_setPort_same s p u
  · exact port_setPort_ne s u ‹_›

@[simp] theorem setPort_setPort (p : Port) (u v : PortUnit) : (s.setPort p u).setPort p v = s.setPort p v := by
  cases p
  · rfl
  · simp only [State.setPort, client_setClient_same, setClient_setClient]

@[simp] theorem setPort_port (p : Port) : s.setPort p (s.port p) = s := by
  cases p
  · rfl
  · exact setClient_client s _

@[simp] theorem setBank_port (b : BankId) (v : Bank) (p : Port) : (s.setBank b v).port p = s.port p := by
  cases p <;> rfl

@[simp] theorem setPort_bank (p : Port) (u : PortUnit) (b : BankId) : (s.setPort p u).bank b = s.bank b := by
  cases p <;> rfl

/-- What setting a port leaves of a client unit: everything but the record of that port. -/
theorem client_setPort (p : Port) (u : PortUnit) (c : ClientId) :
    (s.setPort p u).client c = if p = .client c then { s.client c with port := u } else s.client c := by
  cases p with
  | mgmt => simp only [reduceCtorEq, if_false]; rfl
  | client d =>
    by_cases h : d = c
    · subst h; simp only [State.setPort, client_setClient_same, if_true]
    · have hc : c ≠ d := fun e => h e.symm
      simp only [State.setPort, client_setClient_ne _ _ hc, Port.client.injEq, h, if_false]

@[simp] theorem setBank_holdsSlot (b : BankId) (v : Bank) (c : Claimant) :
    (s.setBank b v).holdsSlot c = s.holdsSlot c := rfl

@[simp] theorem setPort_holdsSlot (p : Port) (u : PortUnit) (c : Claimant) :
    (s.setPort p u).holdsSlot c = s.holdsSlot c := by cases p <;> rfl

@[simp] theorem setBank_isProtected (b : BankId) (v : Bank) (n : Nat) :
    (s.setBank b v).isProtected n = s.isProtected n := rfl

end Sys2Proof.Machine
end

