-- ==== Sys2Proof/Laws/Memory.lean ====
section
/-! SUPPORT. The laws of sparse tables and of memory: what is read after a write, and that every operation keeps the
canonical form, in which equal tables are equal data. -/

namespace Sys2Proof.Machine

open Host (Cell)

namespace Table

variable {α : Type} [DecidableEq α] {d : α}

/-- The canonical form from a key on is the canonical form from every lower key on. -/
theorem wfFrom_mono {t : List (Nat × α)} {lo lo' : Nat} (h : wfFrom d lo t = true) (hle : lo' ≤ lo) :
    wfFrom d lo' t = true := by
  cases t with
  | nil => rfl
  | cons e t =>
    simp only [wfFrom, Bool.and_eq_true, decide_eq_true_eq] at h ⊢
    exact ⟨⟨by omega, h.1.2⟩, h.2⟩

/-- Below its lowest key a canonical table reads the default. -/
theorem get_below {t : List (Nat × α)} {lo a : Nat} (h : wfFrom d lo t = true) (ha : a < lo) : get d t a = d := by
  induction t generalizing lo with
  | nil => rfl
  | cons e t ih =>
    simp only [wfFrom, Bool.and_eq_true, decide_eq_true_eq] at h
    have hne : ¬ a = e.1 := by omega
    simp only [get, hne, if_false]
    exact ih h.2 (by omega)

/-- Writing keeps the canonical form from a key on. -/
theorem wfFrom_put {t : List (Nat × α)} {lo a : Nat} {v : α} (h : wfFrom d lo t = true) (ha : lo ≤ a) :
    wfFrom d lo (put d t a v) = true := by
  induction t generalizing lo with
  | nil =>
    by_cases hv : v = d
    · simp [put, hv, wfFrom]
    · simp [put, hv, wfFrom, ha]
  | cons e t ih =>
    have h' := h
    simp only [wfFrom, Bool.and_eq_true, decide_eq_true_eq] at h'
    obtain ⟨⟨h1, h2⟩, h3⟩ := h'
    simp only [put]
    by_cases hlt : a < e.1
    · rw [if_pos hlt]
      by_cases hv : v = d
      · rw [if_pos hv]; exact h
      · rw [if_neg hv]
        simp only [wfFrom, Bool.and_eq_true, decide_eq_true_eq]
        exact ⟨⟨ha, hv⟩, ⟨by omega, h2⟩, h3⟩
    · rw [if_neg hlt]
      by_cases heq : a = e.1
      · rw [if_pos heq]
        by_cases hv : v = d
        · rw [if_pos hv]; exact wfFrom_mono h3 (by omega)
        · rw [if_neg hv]
          simp only [wfFrom, Bool.and_eq_true, decide_eq_true_eq]
          exact ⟨⟨ha, hv⟩, by rw [heq]; exact h3⟩
      · rw [if_neg heq]
        simp only [wfFrom, Bool.and_eq_true, decide_eq_true_eq]
        exact ⟨⟨h1, h2⟩, ih h3 (by omega)⟩

/-- Writing keeps the canonical form. -/
theorem wf_put {t : List (Nat × α)} {a : Nat} {v : α} (h : wf d t = true) : wf d (put d t a v) = true :=
  wfFrom_put h (Nat.zero_le a)

/-- Another key reads as before. -/
theorem get_put_ne (t : List (Nat × α)) {a b : Nat} (v : α) (hb : b ≠ a) : get d (put d t a v) b = get d t b := by
  induction t with
  | nil =>
    simp only [put]
    split
    · rfl
    · simp only [get, hb, if_false]
  | cons e t ih =>
    simp only [put]
    split
    · split
      · rfl
      · simp only [get, hb, if_false]
    · split
      · rename_i heq
        split
        · simp only [get, ← heq, hb, if_false]
        · simp only [get, ← heq, hb, if_false]
      · simp only [get, ih]

/-- The key written reads the value written. -/
theorem get_putFrom_same {t : List (Nat × α)} {lo : Nat} (a : Nat) (v : α) (h : wfFrom d lo t = true) :
    get d (put d t a v) a = v := by
  induction t generalizing lo with
  | nil =>
    simp only [put]
    split
    · rename_i hv; simp only [get, hv]
    · simp only [get, if_true]
  | cons e t ih =>
    have h' := h
    simp only [wfFrom, Bool.and_eq_true, decide_eq_true_eq] at h'
    simp only [put]
    split
    · rename_i hlt
      split
      · rename_i hv
        rw [hv]
        have hne : ¬ a = e.1 := by omega
        simp only [get, hne, if_false]
        exact get_below h'.2 (by omega)
      · simp only [get, if_true]
    · split
      · rename_i heq
        split
        · rename_i hv
          rw [hv, heq]
          exact get_below h'.2 (Nat.lt_succ_self _)
        · simp only [get, if_true]
      · rename_i hne
        simp only [get, hne, if_false]
        exact ih h'.2

/-- What a canonical table reads after a write. -/
theorem get_put {t : List (Nat × α)} (h : wf d t = true) (a b : Nat) (v : α) :
    get d (put d t a v) b = if b = a then v else get d t b := by
  split
  · rename_i hb; rw [hb]; exact get_putFrom_same a v h
  · rename_i hb; exact get_put_ne t v hb

/-- Mapping keeps the canonical form. -/
theorem wfFrom_map (f : α → α) {t : List (Nat × α)} {lo : Nat} (h : wfFrom d lo t = true) :
    wfFrom d lo (map d f t) = true := by
  induction t generalizing lo with
  | nil => rfl
  | cons e t ih =>
    simp only [wfFrom, Bool.and_eq_true, decide_eq_true_eq] at h
    simp only [map]
    split
    · exact wfFrom_mono (ih h.2) (by omega)
    · rename_i hv
      simp only [wfFrom, Bool.and_eq_true, decide_eq_true_eq]
      exact ⟨⟨h.1.1, hv⟩, ih h.2⟩

/-- Mapping keeps the canonical form. -/
theorem wf_map (f : α → α) {t : List (Nat × α)} (h : wf d t = true) : wf d (map d f t) = true := wfFrom_map f h

/-- What a canonical table reads after a map that keeps the default. -/
theorem get_map (f : α → α) (hd : f d = d) {t : List (Nat × α)} {lo : Nat} (h : wfFrom d lo t = true) (a : Nat) :
    get d (map d f t) a = f (get d t a) := by
  induction t generalizing lo with
  | nil => exact hd.symm
  | cons e t ih =>
    simp only [wfFrom, Bool.and_eq_true, decide_eq_true_eq] at h
    simp only [map]
    split
    · rename_i hv
      by_cases ha : a = e.1
      · simp only [get, ha, if_true]
        rw [hv]
        exact get_below (wfFrom_map f h.2) (Nat.lt_succ_self _)
      · simp only [get, ha, if_false]
        exact ih h.2
    · by_cases ha : a = e.1
      · simp only [get, ha, if_true]
      · simp only [get, ha, if_false]
        exact ih h.2

/-- Updating consecutive keys keeps the canonical form. -/
theorem wf_update (f : α → α) (n : Nat) {t : List (Nat × α)} {a : Nat} (h : wf d t = true) :
    wf d (update d f t a n) = true := by
  induction n generalizing t a with
  | zero => exact h
  | succ n ih => exact ih (wf_put h)

/-- What a canonical table reads after consecutive keys are updated. -/
theorem get_update (f : α → α) (n : Nat) {t : List (Nat × α)} {a : Nat} (h : wf d t = true) (b : Nat) :
    get d (update d f t a n) b = if a ≤ b ∧ b < a + n then f (get d t b) else get d t b := by
  induction n generalizing t a with
  | zero =>
    have : ¬ (a ≤ b ∧ b < a + 0) := by omega
    simp only [update, this, if_false]
  | succ n ih =>
    simp only [update]
    rw [ih (wf_put h), get_put h]
    by_cases hb : b = a
    · have h1 : ¬ (a + 1 ≤ b ∧ b < a + 1 + n) := by omega
      have h2 : a ≤ b ∧ b < a + (n + 1) := by omega
      rw [if_neg h1, if_pos h2, if_pos hb, hb]
    · by_cases h1 : a + 1 ≤ b ∧ b < a + 1 + n
      · have h2 : a ≤ b ∧ b < a + (n + 1) := by omega
        rw [if_pos h1, if_pos h2, if_neg hb]
      · have h2 : ¬ (a ≤ b ∧ b < a + (n + 1)) := by omega
        rw [if_neg h1, if_neg h2, if_neg hb]

/-- Canonical tables that read alike at every key are equal. -/
theorem ext_from {t u : List (Nat × α)} {lo : Nat} (ht : wfFrom d lo t = true) (hu : wfFrom d lo u = true)
    (h : ∀ a, get d t a = get d u a) : t = u := by
  induction t generalizing u lo with
  | nil =>
    cases u with
    | nil => rfl
    | cons e u =>
      simp only [wfFrom, Bool.and_eq_true, decide_eq_true_eq] at hu
      have := h e.1
      simp only [get, if_true] at this
      exact absurd this.symm hu.1.2
  | cons e t ih =>
    have ht' := ht
    simp only [wfFrom, Bool.and_eq_true, decide_eq_true_eq] at ht'
    cases u with
    | nil =>
      have := h e.1
      simp only [get, if_true] at this
      exact absurd this ht'.1.2
    | cons g u =>
      have hu' := hu
      simp only [wfFrom, Bool.and_eq_true, decide_eq_true_eq] at hu'
      have hk : e.1 = g.1 := by
        rcases Nat.lt_trichotomy e.1 g.1 with hlt | heq | hgt
        · have h1 := h e.1
          have hne : ¬ e.1 = g.1 := by omega
          simp only [get, if_true, hne, if_false] at h1
          rw [get_below hu'.2 (by omega)] at h1
          exact absurd h1 ht'.1.2
        · exact heq
        · have h1 := h g.1
          have hne : ¬ g.1 = e.1 := by omega
          simp only [get, if_true, hne, if_false] at h1
          rw [get_below ht'.2 (by omega)] at h1
          exact absurd h1.symm hu'.1.2
      have hv : e.2 = g.2 := by
        have h1 := h e.1
        simp only [get, if_true, hk] at h1
        exact h1
      have htl : t = u := by
        refine ih ht'.2 (by rw [hk]; exact hu'.2) ?_
        intro a
        by_cases ha : a = e.1
        · rw [ha, get_below ht'.2 (Nat.lt_succ_self _), hk, get_below hu'.2 (Nat.lt_succ_self _)]
        · have h1 := h a
          have hg : ¬ a = g.1 := by rw [← hk]; exact ha
          simp only [get, ha, hg, if_false] at h1
          exact h1
      rw [htl]
      congr 1
      exact Prod.ext hk hv

/-- Canonical tables that read alike at every key are equal: equal tables are equal data. -/
theorem ext {t u : List (Nat × α)} (ht : wf d t = true) (hu : wf d u = true) (h : ∀ a, get d t a = get d u a) : t = u :=
  ext_from ht hu h

end Table

/-! ## Memory -/

namespace Memory

/-- What canonical memory reads after a write. -/
theorem read_write {m : List Cell} (h : wf m = true) (a b : Nat) (v : Byte) :
    read (write m a v) b = if b = a then v else read m b := Table.get_put h a b v

/-- Writing keeps the canonical form. -/
theorem wf_write {m : List Cell} (h : wf m = true) (a : Nat) (v : Byte) : wf (write m a v) = true := Table.wf_put h

/-- Writing consecutive bytes keeps the canonical form. -/
theorem wf_writeN {m : List Cell} (h : wf m = true) (a : Nat) (vs : List Byte) : wf (writeN m a vs) = true := by
  induction vs generalizing m a with
  | nil => exact h
  | cons v vs ih => exact ih (wf_write h a v) (a + 1)

/-- Outside the bytes written, memory reads as before. -/
theorem read_writeN_outside (m : List Cell) (a b : Nat) (vs : List Byte) (h : b < a ∨ a + vs.length ≤ b) :
    read (writeN m a vs) b = read m b := by
  induction vs generalizing m a with
  | nil => rfl
  | cons v vs ih =>
    simp only [List.length_cons] at h
    simp only [writeN]
    rw [ih (write m a v) (a + 1) (by omega)]
    exact Table.get_put_ne m v (by omega)

/-- The bytes written read as written. -/
theorem readN_writeN {m : List Cell} (hm : wf m = true) (a : Nat) (vs : List Byte) :
    readN (writeN m a vs) a vs.length = vs := by
  induction vs generalizing m a with
  | nil => rfl
  | cons v vs ih =>
    simp only [writeN, List.length_cons, readN]
    rw [ih (wf_write hm a v) (a + 1), read_writeN_outside _ _ _ _ (by omega), read_write hm, if_pos rfl]

@[simp] theorem length_readN (m : List Cell) (a n : Nat) : (readN m a n).length = n := by
  induction n generalizing a with
  | zero => rfl
  | succ n ih => simp only [readN, List.length_cons, ih]

/-- Reading consecutive bytes depends on those bytes only. -/
theorem readN_congr {m m' : List Cell} {a n : Nat} (h : ∀ b, a ≤ b → b < a + n → read m b = read m' b) :
    readN m a n = readN m' a n := by
  induction n generalizing a with
  | zero => rfl
  | succ n ih =>
    simp only [readN]
    rw [h a (Nat.le_refl a) (by omega), ih (fun b h1 h2 => h b (by omega) (by omega))]

theorem wfFrom_filter (p : Cell → Bool) {m : List Cell} {lo : Nat} (h : Table.wfFrom blank lo m = true) :
    Table.wfFrom blank lo (m.filter p) = true := by
  induction m generalizing lo with
  | nil => rfl
  | cons e m ih =>
    simp only [Table.wfFrom, Bool.and_eq_true, decide_eq_true_eq] at h
    by_cases hp : p e = true
    · rw [List.filter_cons_of_pos hp]
      simp only [Table.wfFrom, Bool.and_eq_true, decide_eq_true_eq]
      exact ⟨h.1, ih h.2⟩
    · rw [List.filter_cons_of_neg hp]
      exact Table.wfFrom_mono (ih h.2) (by omega)

/-- Erasing keeps the canonical form. -/
theorem wf_eraseN {m : List Cell} (h : wf m = true) (a n : Nat) : wf (eraseN m a n) = true := wfFrom_filter _ h

/-- What canonical memory reads after an erase: 0xFF in the unit, as before outside it. -/
theorem read_eraseN {m : List Cell} (h : wf m = true) (a n b : Nat) :
    read (eraseN m a n) b = if a ≤ b ∧ b < a + n then blank else read m b := by
  unfold wf Table.wf at h
  unfold read eraseN
  generalize 0 = lo at h
  induction m generalizing lo with
  | nil => simp [Table.get]
  | cons e m ih =>
    have h' := h
    simp only [Table.wfFrom, Bool.and_eq_true, decide_eq_true_eq] at h'
    rw [List.filter_cons]
    by_cases hp : (decide (e.1 < a) || decide (a + n ≤ e.1)) = true
    · rw [if_pos hp]
      simp only [Bool.or_eq_true, decide_eq_true_eq] at hp
      by_cases hb : b = e.1
      · have hout : ¬ (a ≤ b ∧ b < a + n) := by omega
        simp only [Table.get, hb, if_true]
        rw [hb] at hout
        rw [if_neg hout]
      · simp only [Table.get, hb, if_false]
        exact ih _ h'.2
    · rw [if_neg hp]
      simp only [Bool.or_eq_true, decide_eq_true_eq, not_or, Nat.not_lt, Nat.not_le] at hp
      rw [ih _ h'.2]
      by_cases hb : b = e.1
      · have hin : a ≤ b ∧ b < a + n := by omega
        rw [if_pos hin, if_pos hin]
      · simp only [Table.get, hb, if_false]

end Memory

@[simp] theorem length_freeBytes (k n : Nat) : (freeBytes k n).length = n := by
  induction n generalizing k with
  | zero => rfl
  | succ n ih => simp only [freeBytes, List.length_cons, ih]

/-- Leaving bytes indeterminate keeps the canonical form. -/
theorem wf_scrambleN {m : List Cell} (h : Memory.wf m = true) (a n k : Nat) : Memory.wf (scrambleN m a n k) = true := by
  unfold scrambleN; exact Memory.wf_writeN h a _

/-- Outside the bytes left indeterminate, memory reads as before. -/
theorem read_scrambleN_outside (m : List Cell) (a n k b : Nat) (h : b < a ∨ a + n ≤ b) :
    Memory.read (scrambleN m a n k) b = Memory.read m b := by
  unfold scrambleN; exact Memory.read_writeN_outside _ _ _ _ (by rw [length_freeBytes]; exact h)

@[simp] theorem length_cutBytes (m : List Cell) (a k : Nat) (vs : List Byte) : (cutBytes m a k vs).length = vs.length := by
  induction vs generalizing a k with
  | nil => rfl
  | cons v vs ih => simp only [cutBytes, List.length_cons, ih]

/-- A byte that was not blank keeps its value in a cut program phase (R78). -/
theorem cutByte_of_ne {old v free : Byte} (h : old ≠ 0xFF) : cutByte old v free = old := if_neg h

end Sys2Proof.Machine
end

