-- ==== Sys2Proof/Laws/Moves.lean ====
section
/-! SUPPORT. Said once: everything that settling and taking can do. `Move` lists the elementary changes, each with what holds
when it is made; `settle`, every take and `conclude` are chains of them (`Moves`). A property of states that every
`Move` keeps is kept by all of these, by `Moves.keeps`. -/

namespace Sys2Proof.Machine

/-- Every media access of a list has a credit of at most 8 (R73). -/
def CreditsOk (l : List Access) : Prop := ∀ m c, Access.media m c ∈ l → c ≤ Config.creditLimit

/-- A bank goes on serving: its list changes, keeping the bound on credits; it may begin a sense from being free, or change
what it is sensing; it may note that it has granted a read. Nothing else of it changes. -/
structure Serves (k k' : Bank) : Prop where
  credits : CreditsOk k.waiting → CreditsOk k'.waiting
  claim : k'.claim = k.claim
  openLine : k'.openLine = k.openLine
  erase : k'.erase = k.erase ∨ k'.erase = k.erase.map fun e => { e with served := true }
  activity : k'.activity = k.activity ∨ (k.isFree = true ∧ ∃ x, k'.activity = .sensing x)
    ∨ ((∃ x, k.activity = .sensing x) ∧ ∃ y, k'.activity = .sensing y)

/-- A change of a bank's list that keeps the bound on credits is a bank serving. -/
theorem Serves.list {k : Bank} {w : List Access} (h : CreditsOk k.waiting → CreditsOk w) :
    Serves k { k with waiting := w } := ⟨h, rfl, rfl, Or.inl rfl, Or.inl rfl⟩

/-- A list with fewer accesses keeps the bound on credits. -/
theorem CreditsOk.mono {l : List Access} (w : List Access) (hw : ∀ a ∈ w, a ∈ l) (h : CreditsOk l) : CreditsOk w :=
  fun m c hm => h m c (hw _ hm)

/-- An access with no credit keeps the bound on credits when it joins. -/
theorem CreditsOk.join {l : List Access} {a : Access} (ha : ∀ m c, a = .media m c → c = 0) (h : CreditsOk l) :
    CreditsOk (l ++ [a]) := by
  intro m c hm
  rcases List.mem_append.mp hm with hl | hr
  · exact h m c hl
  · rw [List.mem_singleton] at hr
    rw [ha m c hr.symm]
    exact Nat.zero_le _

/-- The credits that rise stay at most 8. -/
theorem CreditsOk.credited (l : List Access) : CreditsOk (l.map Access.credited) := by
  intro m c hm
  obtain ⟨a, _, ha⟩ := List.mem_map.mp hm
  cases a with
  | read _ => simp only [Access.credited, reduceCtorEq] at ha
  | media m' c' =>
    simp only [Access.credited, Access.media.injEq] at ha
    rw [← ha.2]
    exact Nat.min_le_left _ _

/-- One elementary change made while settling or taking. -/
inductive Move : State → State → Prop
  /-- A response of a request in service leaves. -/
  | responds (s : State) (p : Port) (st : Status) (results : List Byte) : Move s (respond p st results s)
  /-- A cause is raised at the management port. -/
  | raisesMgmt (s : State) (k : Cause) : Move s (raise .mgmt k s)
  /-- A cause is raised at a client port that holds an aperture record. -/
  | raisesClient (s : State) (c : ClientId) (k : Cause) (_ : (s.client c).apertures ≠ []) : Move s (raise (.client c) k s)
  /-- A port's read mark is set or cleared. -/
  | marks (s : State) (p : Port) (v : Bool) : Move s (setReadMark p v s)
  /-- A port's head request is taken. -/
  | begins (s : State) (p : Port) (h : (s.port p).canTake = true) :
      Move s (s.setPort p { s.port p with inService := true })
  /-- A POLL removes a cause. -/
  | polls (s : State) (p : Port) : Move s (s.setPort p { s.port p with causes := (s.port p).causes.polled })
  /-- An entry changes. -/
  | images (s : State) (i : Nat) (o : Option Image) : Move s (s.setImage i o)
  /-- The sector map changes. -/
  | maps (s : State) (t : List (Nat × SectorRecord)) (h : Table.wf {} s.sectors = true → Table.wf {} t = true) :
      Move s { s with sectors := t }
  /-- The job list and the last outcomes change. -/
  | employs (s : State) (l : List Job) (t : List (Nat × Option LastOutcome))
      (h : Table.wf none s.lastOutcomes = true → Table.wf none t = true) :
      Move s { s with jobs := l, lastOutcomes := t }
  /-- An aperture record of a READY client port changes. -/
  | binds (s : State) (c : ClientId) (ap : Nat) (r : Option Aperture) (h : (s.client c).port.state = .ready) :
      Move s (setAperture c ap r s)
  /-- The records of an entry are revoked. -/
  | revokes (s : State) (i : Nat) : Move s { s with clients := s.clients.map fun _ u => revokeAt i u }
  /-- A client port's level is set. -/
  | levels (s : State) (c : ClientId) (l : Nat) (h : l ≤ 3) : Move s (setLevel c l s)
  /-- A bank serves. -/
  | serves (s : State) (b : BankId) (k : Bank) (h : Serves (s.bank b) k) : Move s (s.setBank b k)
  /-- An abandoned job's verify read leaves the banks. -/
  | drops (s : State) (n : Nat) : Move s { s with banks := s.banks.map fun _ k => dropVerify n k }
  /-- A bank gives up its claim and its slot. -/
  | quits (s : State) (b : BankId) : Move s (quitBank b s)
  /-- A program sequence begins on the slot of its bank's claim. -/
  | programs (s : State) (b : BankId) (q : ProgramSequence) (w : List Access) (hf : (s.bank b).isFree = true)
      (hs : s.holdsSlot (.bank b) = true) (hc : (s.bank b).claim = .access) (he : (s.bank b).erase = none)
      (hw : CreditsOk (s.bank b).waiting → CreditsOk w) :
      Move s (s.setBank b { s.bank b with waiting := w, activity := .programming q .blankCheck, openLine := none })
  /-- An erase begins on the slot of its bank's claim. -/
  | erases (s : State) (b : BankId) (n sector : Nat) (w : List Access) (hf : (s.bank b).isFree = true)
      (hs : s.holdsSlot (.bank b) = true) (hc : (s.bank b).claim = .access) (he : (s.bank b).erase = none)
      (hw : CreditsOk (s.bank b).waiting → CreditsOk w) :
      Move s (s.setBank b { s.bank b with waiting := w, activity := .erasing, openLine := none, claim := .none
                                          erase := some { sector, job := n } })
  /-- A suspended erase resumes on the slot of its claim. -/
  | resumes (s : State) (b : BankId) (e : EraseContext) (hf : (s.bank b).isFree = true)
      (hs : s.holdsSlot (.bank b) = true) (hc : (s.bank b).claim = .resume) (he : (s.bank b).erase = some e)
      (hu : e.suspended = true) : Move s (resume b e s)
  /-- A suspend begins. -/
  | suspends (s : State) (b : BankId) (e : EraseContext) (ha : (s.bank b).activity = .erasing)
      (he : (s.bank b).erase = some e) (hl : e.lockout = 0) :
      Move s (s.setBank b { s.bank b with activity := .suspending 0 })
  /-- A bank lodges its claim. -/
  | claims (s : State) (b : BankId) (v : Claim) (hc : (s.bank b).claim = .none) :
      Move s (lodge (.bank b) (s.setBank b { s.bank b with claim := v }))
  /-- The arbiter grants a free slot. -/
  | grants (s s' : State) (h : grantSlot s = some s') : Move s s'
  /-- A settings-store operation is admitted: BOOT_SET and BOOT_CLEAR with the lock OPEN. -/
  | admits (s : State) (work : SettingsWork)
      (hl : s.lockInForce = true → work ≠ .eraseBoot ∧ ∀ c v, work ≠ .bootEntry c v) :
      Move s { s with op := some { work } }
  /-- The settings store lodges its claim. -/
  | lodges (s : State) : Move s (lodge .settings s)
  /-- The settings-store operation runs on its slot. -/
  | runs (s : State) (o : SettingsOp) (h : s.op = some o) (hs : s.holdsSlot .settings = true) :
      Move s { s with op := some { o with running := true, elapsed := 0 } }
  /-- The settings-store operation ends: its slot is released and its copies are replaced. -/
  | closes (s : State) (work : SettingsWork) : Move s (work.refresh (releaseSlot .settings { s with op := none }))

/-- A chain of elementary changes. -/
def Moves (s t : State) : Prop := Relation.ReflTransGen Move s t

namespace Moves

/-- A property that every elementary change keeps is kept by a chain of them. -/
theorem keeps {P : State → Prop} (h : ∀ s t, Move s t → P s → P t) {s t : State} (hm : Moves s t) (hs : P s) : P t := by
  induction hm with
  | refl => exact hs
  | tail _ hab ih => exact h _ _ hab ih

protected theorem refl (s : State) : Moves s s := Relation.ReflTransGen.refl

variable {s t u : State}

protected theorem trans (h : Moves s t) (h' : Moves t u) : Moves s u := Relation.ReflTransGen.trans h h'

theorem move (h : Moves s t) (h' : Move t u) : Moves s u := Relation.ReflTransGen.tail h h'

theorem respond (h : Moves s t) {p : Port} {st : Status} {rs : List Byte} : Moves s (respond p st rs t) :=
  h.move (.responds ..)

theorem raiseMgmt (h : Moves s t) {k : Cause} : Moves s (raise .mgmt k t) := h.move (.raisesMgmt ..)

theorem setReadMark (h : Moves s t) {p : Port} {v : Bool} : Moves s (setReadMark p v t) := h.move (.marks ..)

theorem setImage (h : Moves s t) {i : Nat} {o : Option Image} : Moves s (t.setImage i o) := h.move (.images ..)

theorem updImage (h : Moves s t) {i : Nat} {f : Image → Image} : Moves s (t.updImage i f) := by
  unfold State.updImage
  split
  · exact h.setImage
  · exact h

theorem raiseReads (h : Moves s t) {i : Nat} : Moves s (raiseReads i t) := h.updImage

theorem lowerReads (h : Moves s t) {i : Nat} : Moves s (lowerReads i t) := h.updImage

theorem raiseBindings (h : Moves s t) {i : Nat} : Moves s (raiseBindings i t) := h.updImage

theorem lowerBindings (h : Moves s t) {i : Nat} : Moves s (lowerBindings i t) := h.updImage

theorem updSector (h : Moves s t) {n : Nat} {f : SectorRecord → SectorRecord} : Moves s (t.updSector n f) :=
  h.move (.maps _ _ fun w => Table.wf_put w)

theorem updExtent (h : Moves s t) {a n : Nat} {f : SectorRecord → SectorRecord} : Moves s (t.updExtent a n f) :=
  h.move (.maps _ _ fun w => Table.wf_update f n w)

theorem clearTargets (h : Moves s t) {n : Nat} : Moves s (clearTargets n t) :=
  h.move (.maps _ _ fun w => Table.wf_map _ w)

theorem updJob (h : Moves s t) {n : Nat} {f : Job → Job} : Moves s (t.updJob n f) :=
  h.move (.employs _ _ t.lastOutcomes fun w => w)

theorem activateJob (h : Moves s t) {n : Nat} : Moves s (activateJob n t) := h.updJob

theorem activate (h : Moves s t) {n : Option Nat} : Moves s (activate n t) := by
  cases n
  · exact h
  · exact h.activateJob

theorem serve (h : Moves s t) {b : BankId} {k : Bank} (hk : Serves (t.bank b) k) : Moves s (t.setBank b k) :=
  h.move (.serves _ _ _ hk)

theorem join (h : Moves s t) {b : BankId} {a : Access} (ha : ∀ m c, a = .media m c → c = 0) : Moves s (join b a t) :=
  h.serve (Serves.list (CreditsOk.join ha))

theorem joinMedia (h : Moves s t) {n : Nat} {m : MediaAccess} : Moves s (joinMedia n m t) :=
  h.join fun _ _ e => by cases e; rfl

/-! ## The job unit -/

theorem issue (h : Moves s t) {n sector line : Nat} {m : MediaAccess} : Moves s (issue n sector line m t) :=
  Moves.joinMedia h.updJob

theorem admitJob (h : Moves s t) {n sector line : Nat} {w : JobWork} {m : MediaAccess} :
    Moves s (admitJob n w sector line m t) :=
  Moves.joinMedia (h.move (.employs _ _ _ fun w => Table.wf_put w))

theorem endJob (h : Moves s t) {n : Nat} {o : JobOutcome} {p : Option Nat} : Moves s (endJob n o p t) := by
  unfold Machine.endJob
  split
  · exact Moves.clearTargets (h.move (.employs _ _ _ fun w => Table.wf_put w))
  · exact h

theorem verifyFails (h : Moves s t) {n i c : Nat} {r : BadReason} {o : JobOutcome} :
    Moves s (verifyFails n i r o c t) := h.updImage.endJob.raiseMgmt

/-- A port that holds an older generation holds an aperture record. -/
theorem apertures_of_holdsOlder {u : ClientUnit} {name : Word32} {g : Nat} (h : holdsOlder u name g = true) :
    u.apertures ≠ [] := by
  intro e
  simp only [holdsOlder, e, List.any_nil, Bool.false_eq_true] at h

theorem announceAt (h : Moves s t) {name : Word32} {g : Nat} {c : ClientId} : Moves s (announceAt name g t c) := by
  unfold Machine.announceAt
  split
  · exact h.move (.raisesClient _ _ _ (apertures_of_holdsOlder ‹_›))
  · exact h

theorem announce (h : Moves s t) {im : Image} : Moves s (announce im t) := by
  unfold Machine.announce
  split
  · exact h.announceAt.announceAt.announceAt.announceAt
  · exact h

theorem verifyReadDone (h : Moves s t) {n : Nat} {line : List Byte} : Moves s (verifyReadDone n line t) := by
  unfold Machine.verifyReadDone
  split
  · split
    · split
      · dsimp only
        split
        · exact h.updJob.issue
        · split
          · exact h.updJob.issue
          · exact h.verifyFails
      · exact h
    · exact h
  · exact h

theorem publishedMarkDone (h : Moves s t) {n : Nat} {d : Bool} : Moves s (publishedMarkDone n d t) := by
  unfold Machine.publishedMarkDone
  split
  · split
    · split
      · exact h.setImage.endJob.announce.raiseMgmt
      · exact h
    · exact h.verifyFails
  · exact h

theorem admitVerify (h : Moves s t) {n i : Nat} {im : Image} : Moves s (admitVerify n i im t) := h.setImage.admitJob

theorem admitDiscard (h : Moves s t) {n i : Nat} {im : Image} : Moves s (admitDiscard n i im t) :=
  h.setImage.updExtent.admitJob

theorem admitErase (h : Moves s t) {n sector : Nat} : Moves s (admitErase n sector t) := h.updSector.admitJob

theorem eraseDone (h : Moves s t) {n sector : Nat} {o : EraseOutcome} : Moves s (eraseDone n sector o t) := by
  unfold Machine.eraseDone
  split
  · split
    · split
      · split
        · exact h.updExtent.setImage.endJob.raiseMgmt
        · exact h.updSector.updJob.issue
      · exact h
    · exact h.updImage.endJob.raiseMgmt
    · exact h.updImage.endJob.raiseMgmt
  · split
    · exact h.updSector.endJob.raiseMgmt
    · exact h.endJob.raiseMgmt
    · exact h.endJob.raiseMgmt
  · exact h

theorem programEnded (h : Moves s t) {i : Issuer} {o : ProgramOutcome} : Moves s (programEnded i o t) := by
  unfold Machine.programEnded
  split
  · unfold openEnded
    split
    · exact Moves.respond (h.setImage.updExtent)
    · exact h.respond
    · exact h.respond
  · exact h.respond
  · unfold publishEnded
    split
    · split
      · exact h.admitVerify.respond
      · exact h.respond
    · exact h.respond
    · exact h.respond
  · unfold retireEnded
    split
    · exact h.setImage.respond
    · exact h
  · unfold discardEnded
    split
    · exact h.admitDiscard.respond
    · exact h.respond
  · exact h.publishedMarkDone

/-! ## The banks -/

theorem completeRead (h : Moves s t) {a : ReadAccess} : Moves s (completeRead a t) := by
  have hc : Moves s (countCompletion a t) := by
    unfold countCompletion
    split
    · split
      · exact h.updImage.lowerReads
      · exact h.lowerReads
    · exact h
  unfold Machine.completeRead
  dsimp only
  split
  · exact hc.setReadMark
  · exact hc.setReadMark.respond

theorem grantRead (h : Moves s t) {b : BankId} {a : ReadAccess} (hf : (t.bank b).isFree = true) :
    Moves s (grantRead b a t) := by
  have hw : CreditsOk (t.bank b).waiting → CreditsOk
      (if (t.bank b).erase.isNone = true then ((t.bank b).waiting.eraseP Access.isRead).map Access.credited
        else (t.bank b).waiting.eraseP Access.isRead) := by
    intro hk
    have hk' := CreditsOk.mono ((t.bank b).waiting.eraseP Access.isRead) (fun _ hm => List.mem_of_mem_eraseP hm) hk
    split
    · exact CreditsOk.credited _
    · exact hk'
  unfold Machine.grantRead
  dsimp only
  split
  · refine Moves.completeRead (h.serve ?_)
    exact ⟨hw, rfl, rfl, Or.inr rfl, Or.inl rfl⟩
  · refine h.serve ?_
    exact ⟨hw, rfl, rfl, Or.inr rfl, Or.inr (Or.inl ⟨hf, .read a, rfl⟩)⟩

theorem grantVerify (h : Moves s t) {b : BankId} {sel : Access → Bool} {n sector line : Nat}
    (hf : (t.bank b).isFree = true) : Moves s (grantVerify b sel n sector line t) := by
  have hw : CreditsOk (t.bank b).waiting → CreditsOk ((t.bank b).waiting.eraseP sel) :=
    CreditsOk.mono _ fun _ hm => List.mem_of_mem_eraseP hm
  unfold Machine.grantVerify
  dsimp only
  split
  · refine Moves.verifyReadDone (Moves.activateJob (h.serve ?_))
    exact Serves.list hw
  · refine Moves.activateJob (h.serve ?_)
    exact ⟨hw, rfl, rfl, Or.inl rfl, Or.inr (Or.inl ⟨hf, .verify (some n) sector line, rfl⟩)⟩

theorem withdrawRaw (h : Moves s t) {b : BankId} {sector : Nat} : Moves s (withdrawRaw b sector t) := by
  unfold Machine.withdrawRaw
  dsimp only
  split
  · refine Moves.respond (Moves.setReadMark (h.serve ?_))
    exact Serves.list (CreditsOk.mono _ fun _ hm => (List.mem_filter.mp hm).1)
  · exact h

theorem quitBank (h : Moves s t) {b : BankId} : Moves s (quitBank b t) := h.move (.quits ..)

theorem endSettings (h : Moves s t) {w : SettingsWork} {st : Status} : Moves s (endSettings w st t) :=
  Moves.respond (h.move (.closes ..))

/-! ## What is due -/

/-- The changes of a grant. -/
theorem ofGrant {b : BankId} (h : Moves s t) (hd : grant t b = some u) : Moves s u := by
  unfold grant at hd
  dsimp only at hd
  split at hd
  · exact absurd hd (by simp)
  · rename_i hfree
    have hf : (t.bank b).isFree = true := by
      cases hk : (t.bank b).isFree
      · rw [hk] at hfree; exact absurd rfl hfree
      · rfl
    have hr : ∀ {v}, grantReadOf b t = some v → Moves s v := by
      intro v hv
      unfold grantReadOf at hv
      split at hv
      · rw [← Option.some.inj hv]; exact h.grantRead hf
      · exact absurd hv (by simp)
    have hv : ∀ {sel v}, grantVerifyOf b sel t = some v → Moves s v := by
      intro sel v hv
      unfold grantVerifyOf at hv
      split at hv
      · rw [← Option.some.inj hv]; exact h.grantVerify hf
      · exact absurd hv (by simp)
    split at hd
    · exact hr hd
    · split at hd
      · exact hv hd
      · split at hd
        · exact absurd hd (by simp)
        · split at hd
          · exact hr hd
          · exact hv hd

/-- A program sequence begins, or ends at its protection check. -/
theorem beginProgram (h : Moves s t) {b : BankId} {q : ProgramSequence} (hf : (t.bank b).isFree = true)
    (hs : t.holdsSlot (.bank b) = true) (hc : (t.bank b).claim = .access) (he : (t.bank b).erase = none) :
    Moves s (beginProgram b q t) := by
  have hw : CreditsOk (t.bank b).waiting → CreditsOk ((t.bank b).waiting.eraseP Access.isSupplyBound) :=
    CreditsOk.mono _ fun _ hm => List.mem_of_mem_eraseP hm
  unfold Machine.beginProgram
  dsimp only
  split
  · exact Moves.programEnded (Moves.quitBank (h.serve (Serves.list hw)).activate)
  · exact Moves.activate (h.move (.programs _ _ _ _ hf hs hc he hw))

/-- An erase start begins, or ends at its protection check. -/
theorem beginErase (h : Moves s t) {b : BankId} {n sector : Nat} (hf : (t.bank b).isFree = true)
    (hs : t.holdsSlot (.bank b) = true) (hc : (t.bank b).claim = .access) (he : (t.bank b).erase = none) :
    Moves s (beginErase b n sector t) := by
  have hw : CreditsOk (t.bank b).waiting → CreditsOk ((t.bank b).waiting.eraseP Access.isSupplyBound) :=
    CreditsOk.mono _ fun _ hm => List.mem_of_mem_eraseP hm
  unfold Machine.beginErase
  dsimp only
  split
  · exact Moves.eraseDone (Moves.quitBank (Moves.activateJob (h.serve (Serves.list hw))))
  · exact Moves.withdrawRaw (Moves.activateJob (h.move (.erases _ _ _ _ _ hf hs hc he hw)))

/-- The changes of case 1 of the grant rule. -/
theorem ofStart {b : BankId} (h : Moves s t) (hd : start t b = some u) : Moves s u := by
  unfold start at hd
  dsimp only at hd
  split at hd
  · exact absurd hd (by simp)
  · rename_i hg
    simp only [Bool.not_eq_true', Bool.not_eq_false, Bool.and_eq_true] at hg
    obtain ⟨hf, hs⟩ := hg
    split at hd
    · rename_i e hc he
      split at hd
      · rename_i hu
        rw [← Option.some.inj hd]
        exact h.move (.resumes _ _ _ hf hs hc he hu)
      · exact absurd hd (by simp)
    · rename_i hc he
      split at hd
      · rw [← Option.some.inj hd]; exact h.beginProgram hf hs hc he
      · rw [← Option.some.inj hd]; exact h.beginErase hf hs hc he
      · exact absurd hd (by simp)
    · exact absurd hd (by simp)

/-- The changes of the beginning of a suspend. -/
theorem ofSuspend {b : BankId} (h : Moves s t) (hd : beginSuspend t b = some u) : Moves s u := by
  unfold beginSuspend at hd
  dsimp only at hd
  split at hd
  · rename_i e ha he
    split at hd
    · rename_i hl
      simp only [Bool.and_eq_true, decide_eq_true_eq] at hl
      rw [← Option.some.inj hd]
      exact h.move (.suspends _ _ _ ha he hl.1)
    · exact absurd hd (by simp)
  · exact absurd hd (by simp)

/-- The changes of a resume claim. -/
theorem ofResumeClaim {b : BankId} (h : Moves s t) (hd : lodgeResume t b = some u) : Moves s u := by
  unfold lodgeResume at hd
  dsimp only at hd
  split at hd
  · split at hd
    · rename_i hc
      simp only [Bool.and_eq_true, beq_iff_eq] at hc
      rw [← Option.some.inj hd]
      exact h.move (.claims _ _ _ hc.1.2)
    · exact absurd hd (by simp)
  · exact absurd hd (by simp)

/-- The changes of a claim for a supply-bound access. -/
theorem ofAccessClaim {b : BankId} (h : Moves s t) (hd : lodgeAccess t b = some u) : Moves s u := by
  unfold lodgeAccess at hd
  dsimp only at hd
  split at hd
  · rename_i hc
    simp only [Bool.and_eq_true, beq_iff_eq] at hc
    rw [← Option.some.inj hd]
    exact h.move (.claims _ _ _ hc.1.1.1)
  · exact absurd hd (by simp)

/-- The changes of the start of a settings-store operation. -/
theorem ofSettingsStart (h : Moves s t) (hd : settingsStart t = some u) : Moves s u := by
  unfold settingsStart at hd
  split at hd
  · rename_i o ho
    split at hd
    · rename_i hs
      simp only [Bool.and_eq_true] at hs
      rw [← Option.some.inj hd]
      have hr : Moves s { t with op := some { o with running := true, elapsed := 0 } } :=
        h.move (.runs _ _ ho hs.2)
      unfold startSettings
      dsimp only
      split
      · split
        · exact hr
        · exact h.endSettings
      · exact hr
      · exact hr
      all_goals
        split
        · exact h.endSettings
        · split
          · exact h.endSettings
          · exact hr
    · exact absurd hd (by simp)
  · exact absurd hd (by simp)

/-- What a search over the four banks finds, one of them gave. -/
theorem of_findSome {f : BankId → Option State} {v : State} (h : Four.all.findSome? f = some v) : ∃ b, f b = some v := by
  obtain ⟨b, _, hb⟩ := List.exists_of_findSome?_eq_some h
  exact ⟨b, hb⟩

/-- What is due is a chain of elementary changes. -/
theorem ofDue (h : Moves s t) (hd : due t = some u) : Moves s u := by
  unfold due at hd
  simp only [Option.or_eq_some_iff] at hd
  rcases hd with hd | ⟨-, hd | ⟨-, hd | ⟨-, hd | ⟨-, hd | ⟨-, hd | ⟨-, hd⟩⟩⟩⟩⟩⟩
  · obtain ⟨b, hb⟩ := of_findSome hd; exact h.ofStart hb
  · exact h.ofSettingsStart hd
  · exact h.move (.grants _ _ hd)
  · obtain ⟨b, hb⟩ := of_findSome hd; exact h.ofResumeClaim hb
  · obtain ⟨b, hb⟩ := of_findSome hd; exact h.ofGrant hb
  · obtain ⟨b, hb⟩ := of_findSome hd; exact h.ofSuspend hb
  · obtain ⟨b, hb⟩ := of_findSome hd; exact h.ofAccessClaim hb

theorem settleN (h : Moves s t) {n : Nat} : Moves s (settleN n t) := by
  induction n generalizing t with
  | zero => exact h
  | succ n ih =>
    unfold Machine.settleN
    split
    · exact ih (h.ofDue ‹_›)
    · exact h

/-- Settling is a chain of elementary changes. -/
theorem settle (h : Moves s t) : Moves s (settle t) := h.settleN

/-! ## Takes -/

theorem createRead (h : Moves s t) {a : ReadAccess} : Moves s (createRead a t) := by
  unfold Machine.createRead
  dsimp only
  refine Moves.settle (Moves.join (Moves.setReadMark ?_) (fun _ _ e => by cases e))
  split
  · exact h.raiseReads
  · exact h

theorem startSequence (h : Moves s t) {q : ProgramSequence} : Moves s (startSequence q t) := h.joinMedia.settle

theorem takeFetch (h : Moves s t) {c : ClientId} {ap o l a : Nat} : Moves s (takeFetch c ap o l a t) := by
  unfold Machine.takeFetch
  split
  · exact h.respond
  · split
    · exact h.respond
    · split
      · exact h.respond
      · exact h.createRead

theorem takeRead (h : Moves s t) {i o l : Nat} : Moves s (takeRead i o l t) := by
  unfold Machine.takeRead
  split
  · exact h.respond
  · split
    · exact h.respond
    · split
      · exact h.respond
      · exact h.createRead

theorem takeReadRaw (h : Moves s t) {n l f k : Nat} : Moves s (takeReadRaw n l f k t) := by
  unfold Machine.takeReadRaw
  split
  · exact h.respond
  · split
    · exact h.respond
    · split
      · exact h.respond
      · exact h.createRead

theorem takeOpen (h : Moves s t) {name : Word32} {f c k l : Nat} : Moves s (takeOpen name f c k l t) := by
  unfold Machine.takeOpen
  split
  · split
    · exact h.respond
    · split
      · exact h.respond
      · split
        · exact h.respond
        · exact h.startSequence
  · exact h.respond

theorem takeWrite (h : Moves s t) {i o : Nat} {d : List Byte} : Moves s (takeWrite i o d t) := by
  unfold Machine.takeWrite
  split
  · exact h.respond
  · split
    · exact h.respond
    · split
      · exact h.respond
      · exact h.startSequence

theorem takePublish (h : Moves s t) {i l : Nat} {c : Word32} : Moves s (takePublish i l c t) := by
  unfold Machine.takePublish
  split
  · exact h.respond
  · split
    · exact h.respond
    · split
      · exact h.respond
      · exact h.startSequence

theorem takeAbandon (h : Moves s t) {n : Nat} : Moves s (takeAbandon n t) := by
  unfold Machine.takeAbandon
  split
  · exact h.respond
  · split
    · exact h.respond
    · split
      · exact Moves.respond (Moves.endJob (Moves.updImage (h.move (.drops _ _))))
      all_goals exact h.respond

theorem takeErase (h : Moves s t) {n : Nat} : Moves s (takeErase n t) := by
  unfold Machine.takeErase
  split
  · exact h.respond
  · split
    · exact h.respond
    · exact h.admitErase.respond.settle
    · exact h.respond

theorem takeRetire (h : Moves s t) {i : Nat} : Moves s (takeRetire i t) := by
  unfold Machine.takeRetire
  split
  · exact h.respond
  · split
    · exact h.respond
    · split
      · exact h.respond
      · split
        · exact h.respond
        · exact h.startSequence

theorem takeRevoke (h : Moves s t) {i : Nat} : Moves s (takeRevoke i t) := by
  unfold Machine.takeRevoke
  split
  · exact h.respond
  · split
    · exact h.respond
    · split
      · exact h.respond
      · exact Moves.respond (Moves.setImage (h.move (.revokes _ _)))

theorem takeDiscard (h : Moves s t) {i : Nat} : Moves s (takeDiscard i t) := by
  unfold Machine.takeDiscard
  split
  · exact h.respond
  · split
    · exact h.respond
    · split
      · exact h.respond
      · split
        · exact h.respond
        · split
          · exact h.respond
          · exact h.startSequence

theorem takeIdentify (h : Moves s t) {p : Port} : Moves s (takeIdentify p t) := h.respond

theorem takePoll (h : Moves s t) {p : Port} : Moves s (takePoll p t) := Moves.respond (h.move (.polls _ _))

theorem takeEntry (h : Moves s t) {i : Nat} : Moves s (takeEntry i t) := by
  unfold Machine.takeEntry
  split <;> exact h.respond

theorem takeFind (h : Moves s t) {n : Word32} : Moves s (takeFind n t) := by
  unfold Machine.takeFind
  split <;> exact h.respond

theorem takeClearAccessed (h : Moves s t) {i : Nat} : Moves s (takeClearAccessed i t) := by
  unfold Machine.takeClearAccessed
  split
  · exact h.respond
  · split
    · exact h.respond
    · exact h.setImage.respond

theorem takeSector (h : Moves s t) {n : Nat} : Moves s (takeSector n t) := by
  unfold Machine.takeSector
  split <;> exact h.respond

theorem takeJobs (h : Moves s t) : Moves s (takeJobs t) := h.respond

theorem takeSetLevel (h : Moves s t) {p l : Nat} : Moves s (takeSetLevel p l t) := by
  unfold Machine.takeSetLevel
  split
  · rename_i hl
    exact Moves.respond (h.move (.levels _ _ _ (of_decide_eq_true hl)))
  · exact h.respond

theorem bindAperture (h : Moves s t) {c : ClientId} {ap : Nat} {e : Nat × Image} {boot : Bool}
    (hr : (t.client c).port.state = .ready) : Moves s (bindAperture c ap e boot t) :=
  Moves.raiseBindings (h.move (.binds _ _ _ _ hr))

theorem takeBind (h : Moves s t) {c : ClientId} {ap g : Nat} {n : Word32} (hr : (t.client c).port.state = .ready) :
    Moves s (takeBind c ap n g t) := by
  unfold Machine.takeBind
  split
  · exact h.respond
  · split
    · exact h.respond
    · split
      · exact h.respond
      · split
        · exact h.respond
        · exact (h.bindAperture hr).respond

theorem releaseRecord (h : Moves s t) {r : Aperture} : Moves s (releaseRecord r t) := by
  unfold Machine.releaseRecord
  split
  · exact h
  · exact h.lowerBindings

theorem takeUnbind (h : Moves s t) {c : ClientId} {ap : Nat} (hr : (t.client c).port.state = .ready) :
    Moves s (takeUnbind c ap t) := by
  unfold Machine.takeUnbind
  split
  · exact h.respond
  · split
    · exact h.respond
    · exact Moves.respond (Moves.releaseRecord (h.move (.binds _ _ _ _ hr)))

theorem takeDescribe (h : Moves s t) {c : ClientId} {ap : Nat} : Moves s (takeDescribe c ap t) := by
  unfold Machine.takeDescribe
  split <;> exact h.respond

theorem startOperation (h : Moves s t) {w : SettingsWork}
    (hl : t.lockInForce = true → w ≠ .eraseBoot ∧ ∀ c v, w ≠ .bootEntry c v) :
    Moves s (startOperation w t) := Moves.settle ((h.move (.admits _ _ hl)).move (.lodges _))

theorem takeProtect (h : Moves s t) {g : Nat} : Moves s (takeProtect g t) := by
  unfold Machine.takeProtect
  split
  · exact h.respond
  · split
    · exact h.respond
    · exact h.startOperation fun _ => ⟨by simp, by simp⟩

theorem takeUnprotectAll (h : Moves s t) : Moves s (takeUnprotectAll t) := by
  unfold Machine.takeUnprotectAll
  split
  · exact h.respond
  · exact h.startOperation fun _ => ⟨by simp, by simp⟩

theorem takeBootSet (h : Moves s t) {p l : Nat} {a b : Word32} : Moves s (takeBootSet p a b l t) := by
  unfold Machine.takeBootSet
  split
  · split
    · exact h.respond
    · rename_i hl
      exact h.startOperation fun e => absurd e hl
  · exact h.respond

theorem takeBootClear (h : Moves s t) : Moves s (takeBootClear t) := by
  unfold Machine.takeBootClear
  split
  · exact h.respond
  · rename_i hl
    exact h.startOperation fun e => absurd e hl

theorem takeBootLock (h : Moves s t) : Moves s (takeBootLock t) :=
  h.startOperation fun _ => ⟨by simp, by simp⟩

/-- The take of a request at a READY port is a chain of elementary changes. -/
theorem takeRequest (h : Moves s t) {p : Port} {r : Request} (hr : (t.port p).state = .ready) :
    Moves s (takeRequest p r t) := by
  cases p with
  | mgmt =>
    cases r
    case identify => exact h.takeIdentify (p := .mgmt)
    case poll => exact h.takePoll (p := .mgmt)
    case entry => exact h.takeEntry
    case find => exact h.takeFind
    case sector => exact h.takeSector
    case jobs => exact h.takeJobs
    case openImage => exact h.takeOpen
    case write => exact h.takeWrite
    case publish => exact h.takePublish
    case abandon => exact h.takeAbandon
    case retire => exact h.takeRetire
    case revoke => exact h.takeRevoke
    case discard => exact h.takeDiscard
    case erase => exact h.takeErase
    case clearAccessed => exact h.takeClearAccessed
    case read => exact h.takeRead
    case readRaw => exact h.takeReadRaw
    case setLevel => exact h.takeSetLevel
    case protect => exact h.takeProtect
    case unprotectAll => exact h.takeUnprotectAll
    case bootSet => exact h.takeBootSet
    case bootClear => exact h.takeBootClear
    case bootLock => exact h.takeBootLock
    all_goals exact h.respond (p := .mgmt) (st := .unknownRequest) (rs := [])
  | client c =>
    cases r
    case identify => exact h.takeIdentify (p := .client c)
    case poll => exact h.takePoll (p := .client c)
    case bind => exact h.takeBind hr
    case unbind => exact h.takeUnbind hr
    case describe => exact h.takeDescribe
    case fetch => exact h.takeFetch
    all_goals exact h.respond (p := .client c) (st := .unknownRequest) (rs := [])

/-- A port that can take is READY. -/
theorem ready_of_canTake {u : PortUnit} (h : u.canTake = true) : u.state = .ready := by
  simp only [PortUnit.canTake, Bool.and_eq_true, beq_iff_eq] at h
  exact h.1.1.1.1

theorem takeHead (h : Moves s t) {p : Port} (hc : (t.port p).canTake = true) : Moves s (takeHead p t) := by
  unfold Machine.takeHead
  split
  · refine Moves.takeRequest (h.move (.begins _ _ hc)) ?_
    rw [port_setPort_same]
    exact ready_of_canTake (u := t.port p) hc
  · exact h

theorem takeN (h : Moves s t) {n : Nat} {p : Port} : Moves s (takeN n p t) := by
  induction n generalizing t with
  | zero => exact h
  | succ n ih =>
    unfold Machine.takeN
    split
    · exact ih (h.takeHead ‹_›)
    · exact h

/-- The takes of a port are a chain of elementary changes. -/
theorem takesAt (h : Moves s t) {p : Port} : Moves s (takesAt p t) := h.takeN

theorem takeAnyN (h : Moves s t) {n : Nat} : Moves s (takeAnyN n t) := by
  induction n generalizing t with
  | zero => exact h
  | succ n ih =>
    unfold Machine.takeAnyN
    split
    · rename_i u hu
      refine ih ?_
      unfold takeAny at hu
      rw [Option.map_eq_some_iff] at hu
      obtain ⟨p, hp, rfl⟩ := hu
      have hc : (t.port p).canTake = true := List.find?_some (p := fun q => (t.port q).canTake) hp
      exact h.takeHead hc
    · exact h

/-- The takes of all ports are a chain of elementary changes. -/
theorem takesAll (h : Moves s t) : Moves s (takesAll t) := h.takeAnyN

/-- The end of an event is a chain of elementary changes. -/
theorem conclude (h : Moves s t) : Moves s (conclude t) := h.settle.takesAll

end Moves

end Sys2Proof.Machine
end

