-- ==== Sys2Proof/Laws/Acts.lean ====
section
/-! SUPPORT. Said once: everything a step can do. `Act` lists the elementary changes that an event makes beside those of
settling and taking, each with what holds when it is made; every step is a chain of them (`Acts`). A property of states
that every `Act` keeps is kept by every step, by `Acts.keeps` and `step_acts`. -/

namespace Sys2Proof.Machine

/-- A sector left indeterminate: memory keeps its canonical form and every byte outside the sector; nothing else changes but
the count of free values. Cite this in place of unfolding, which would write out 65,536 free bytes. -/
theorem scrambleSector_spec (n : Nat) (s : State) : ∃ m k, scrambleSector n s = { s with mem := m, freeCount := k }
    ∧ (Memory.wf s.mem = true → Memory.wf m = true)
    ∧ ∀ b, (b < lineAddress n 0 0 ∨ lineAddress n 0 0 + Config.sectorBytes ≤ b) → Memory.read m b = Memory.read s.mem b :=
  ⟨_, _, rfl, fun h => wf_scrambleN h _ _ _, fun b h => read_scrambleN_outside _ _ _ _ b h⟩

/-- One elementary change made by a step. -/
inductive Act : State → State → Prop
  /-- A change made while settling or taking. -/
  | moves (s t : State) (h : Move s t) : Act s t
  /-- The WP input changes. -/
  | wires (s : State) (v : Bool) : Act s { s with wpHigh := v }
  /-- A PORT_RESET line changes. -/
  | lines (s : State) (c : ClientId) (v : Bool) : Act s (setLine c v s)
  /-- Free values are drawn. -/
  | draws (s : State) (n : Nat) : Act s { s with freeCount := n }
  /-- A request joins the queue of a READY port. -/
  | queues (s : State) (p : Port) (tag : Byte) (r : Request) (hr : (s.port p).state = .ready)
      (hq : (s.port p).queue.length < Config.queueDepth) :
      Act s (s.setPort p { s.port p with queue := (s.port p).queue ++ [(tag, r)] })
  /-- An answer at once is placed. -/
  | answers (s : State) (p : Port) (kind tag : Byte) (st : Status) (h : ignores p s = false) :
      Act s (answer p kind tag st s)
  /-- The link has sent its frame. -/
  | sends (s : State) (p : Port) : Act s (s.setPort p (s.port p).sent)
  /-- A program phase is cut or fails. -/
  | cuts (s : State) (q : ProgramSequence) : Act s (cutLine q s)
  /-- An erase is cut or times out. -/
  | scrambles (s : State) (n : Nat) (m : List Host.Cell) (k : Nat) (hw : Memory.wf s.mem = true → Memory.wf m = true)
      (ho : ∀ b, (b < lineAddress n 0 0 ∨ lineAddress n 0 0 + Config.sectorBytes ≤ b) →
        Memory.read m b = Memory.read s.mem b) : Act s { s with mem := m, freeCount := k }
  /-- A settings-store program is cut or fails. -/
  | cutsStore (s : State) (o : SettingsOp) (h : s.op = some o) (hr : o.running = true) (he : o.work.isErase = false) :
      Act s (cutSettings o.work s)
  /-- A settings-store erase is cut or times out. -/
  | scramblesStore (s : State) (o : SettingsOp) (h : s.op = some o) (hr : o.running = true) (he : o.work.isErase = true) :
      Act s (scrambleSettings o.work s)
  /-- A settings-store program takes. -/
  | programsStore (s : State) (o : SettingsOp) (h : s.op = some o) (hr : o.running = true) (he : o.work.isErase = false) :
      Act s (programSettings o.work s)
  /-- A settings-store erase completes. -/
  | erasesStore (s : State) (o : SettingsOp) (h : s.op = some o) (hr : o.running = true) (he : o.work.isErase = true) :
      Act s (eraseSettings o.work s)
  /-- Every item of volatile state takes its reset value. -/
  | clears (s : State) : Act s (clearVolatile s)
  /-- RESET is released. -/
  | releases (s : State) : Act s (releaseReset s)
  /-- Every aperture record of a client port is emptied. -/
  | empties (s : State) (c : ClientId) : Act s (s.setClient c { s.client c with apertures := [] })
  /-- A client port with no aperture record becomes RESETTING. -/
  | resets (s : State) (c : ClientId) (h : (s.client c).apertures = [] ∨ (s.client c).port.state = .starting)
      (hh : s.resetHeld = false) : Act s (s.setPort (.client c) (s.client c).port.resetting)
  /-- A RESETTING client port becomes STARTING. -/
  | restarts (s : State) (c : ClientId) (h : (s.client c).port.state = .resetting) :
      Act s (s.setPort (.client c) { (s.client c).port with state := .starting })
  /-- A client port that is not READY becomes READY after its boot binding. -/
  | readies (s : State) (c : ClientId) (h : (s.client c).port.state ≠ .ready) (hh : s.resetHeld = false) :
      Act s (readyClient c s)
  /-- The management port becomes READY. -/
  | readiesMgmt (s : State) (hh : s.resetHeld = false) : Act s (startMgmt s)
  /-- The scanner's stage, position and next index change. -/
  | scans (s : State) (g : ScanStage) (p n : Nat) : Act s { s with scanStage := g, scanPosition := p, nextIndex := n }
  /-- The working copies take what the store holds. -/
  | refreshes (s : State) : Act s (refreshBoot (refreshRow s))
  /-- A sense begins in a bank, or goes on as another. -/
  | sensesIn (s : State) (b : BankId) (x : Sensing) : Act s (s.setBank b { s.bank b with activity := .sensing x })
  /-- A bank becomes IDLE with no open line. -/
  | idles (s : State) (b : BankId) : Act s (s.setBank b { s.bank b with activity := .idle, openLine := none })
  /-- A bank has sensed a line. -/
  | senses (s : State) (b : BankId) (x : Sensing) (l : Nat × Nat) (h : (s.bank b).activity = .sensing x) :
      Act s (s.setBank b { s.bank b with activity := .lineOpen, openLine := some l })
  /-- A program sequence enters another phase. -/
  | enters (s : State) (b : BankId) (q : ProgramSequence) (f g : ProgramPhase)
      (h : (s.bank b).activity = .programming q f) : Act s (enterPhase b q g s)
  /-- A line's target bytes take their intended values. -/
  | writes (s : State) (q : ProgramSequence) : Act s (programLine q s)
  /-- A sector is erased. -/
  | erases (s : State) (n : Nat) :
      Act s { s with mem := Memory.eraseN s.mem (lineAddress n 0 0) Config.sectorBytes }
  /-- An erase context is removed. -/
  | endsErase (s : State) (b : BankId) : Act s (endErase b s)
  /-- A suspend completes. -/
  | suspended (s : State) (b : BankId) (e : EraseContext) (h : runningErase (s.bank b) = some e) :
      Act s (releaseSlot (.bank b) (s.setBank b { s.bank b with
        activity := .idle, openLine := none, erase := some { e with suspended := true, served := false } }))
  /-- A lockout expires. -/
  | expires (s : State) (b : BankId) (e : EraseContext) (h : runningErase (s.bank b) = some e) :
      Act s (s.setBank b { s.bank b with
        erase := some { e with runningTime := e.runningTime + e.lockout, lockout := 0 } })
  /-- One microsecond passes in every unit. -/
  | passes (s : State) : Act s (later s)

/-- A chain of elementary changes. -/
def Acts (s t : State) : Prop := Relation.ReflTransGen Act s t

/-- A chain of the changes of settling and taking is a chain of changes. -/
theorem Moves.acts {s t : State} (h : Moves s t) : Acts s t := by
  induction h with
  | refl => exact Relation.ReflTransGen.refl
  | tail _ hab ih => exact Relation.ReflTransGen.tail ih (.moves _ _ hab)

namespace Acts

/-- A property that every elementary change keeps is kept by a chain of them. -/
theorem keeps {P : State → Prop} (h : ∀ s t, Act s t → P s → P t) {s t : State} (hm : Acts s t) (hs : P s) : P t := by
  induction hm with
  | refl => exact hs
  | tail _ hab ih => exact h _ _ hab ih

protected theorem refl (s : State) : Acts s s := Relation.ReflTransGen.refl

variable {s t u : State}

protected theorem trans (h : Acts s t) (h' : Acts t u) : Acts s u := Relation.ReflTransGen.trans h h'

theorem act (h : Acts s t) (h' : Act t u) : Acts s u := Relation.ReflTransGen.tail h h'

theorem after (h : Acts s t) (h' : Moves t u) : Acts s u := h.trans h'.acts

/-- A fold of chains over a list is a chain. -/
theorem foldl {α : Type} {f : State → α → State} (hf : ∀ t a, Acts t (f t a)) (l : List α) (h : Acts s t) :
    Acts s (l.foldl f t) := by
  induction l generalizing t with
  | nil => exact h
  | cons a l ih => exact ih (h.trans (hf t a))

theorem scrambleSector (h : Acts s t) {n : Nat} : Acts s (scrambleSector n t) := by
  obtain ⟨m, k, he, hw, ho⟩ := scrambleSector_spec n t
  rw [he]
  exact h.act (.scrambles _ n m k hw ho)

theorem conclude (h : Acts s t) : Acts s (conclude t) := h.after (Moves.refl t).conclude

theorem takesAll (h : Acts s t) : Acts s (takesAll t) := h.after (Moves.refl t).takesAll

theorem takesAt (h : Acts s t) {p : Port} : Acts s (takesAt p t) := h.after (Moves.refl t).takesAt

theorem raiseMgmt (h : Acts s t) {k : Cause} : Acts s (raise .mgmt k t) := h.after (Moves.refl t).raiseMgmt

/-! ## Arrivals -/

theorem enqueue (h : Acts s t) {p : Port} {tag : Byte} {r : Request} (hr : (t.port p).state = .ready)
    (hi : ignores p t = false) : Acts s (enqueue p tag r t) := by
  unfold Machine.enqueue
  split
  · exact (h.act (.queues _ _ _ _ hr ‹_›)).takesAt
  · exact h.act (.answers _ _ _ _ _ hi)

/-- A port that is neither RESETTING nor STARTING is READY. -/
theorem ready_of_ne {p : Port} (hi : ignores p t = false) (hs : (t.port p).state ≠ .starting) :
    (t.port p).state = .ready := by
  simp only [ignores, Bool.or_eq_false_iff, beq_eq_false_iff_ne, ne_eq] at hi
  cases he : (t.port p).state
  · exact absurd he hs
  · rfl
  · exact absurd he hi.2

theorem arrive (h : Acts s t) {p : Port} {tag : Byte} {r : Request} : Acts s (arrive p tag r t) := by
  unfold Machine.arrive
  split
  · exact h
  · rename_i hi
    simp only [Bool.not_eq_true] at hi
    split
    · exact h.act (.answers _ _ _ _ _ hi)
    · exact h.enqueue (ready_of_ne hi ‹_›) hi

theorem answerFrame (h : Acts s t) {p : Port} {bytes : List Byte} {st : Status} (hi : ignores p t = false) :
    Acts s (answerFrame p bytes st t) := by
  refine (h.act (.draws _ (t.freeCount + (echoed t.freeCount bytes).2.2))).act (.answers _ _ _ _ _ ?_)
  cases p <;> exact hi

theorem frameArrives (h : Acts s t) {p : Port} {bytes : List Byte} : Acts s (frameArrives p bytes t) := by
  unfold Machine.frameArrives
  split
  · exact h
  · rename_i hi
    simp only [Bool.not_eq_true] at hi
    split
    · exact h.answerFrame hi
    · split
      · exact h.answerFrame hi
      · split
        · exact h.answerFrame hi
        · split
          · exact h.answerFrame hi
          · exact h.enqueue (ready_of_ne hi ‹_›) hi

theorem frameSent (h : Acts s t) {p : Port} : Acts s (frameSent p t) := by
  unfold Machine.frameSent
  split
  · exact h
  · exact (h.act (.sends _ _)).takesAt

/-! ## Resets -/

theorem cutBank (h : Acts s t) {b : BankId} : Acts s (cutBank t b) := by
  have hp : Acts s (cutProgram b t) := by
    unfold cutProgram
    split
    · exact h.act (.cuts _ _)
    · exact h.act (.cuts _ _)
    · exact h
  unfold Machine.cutBank cutErase
  split
  · exact hp.scrambleSector
  · exact hp

theorem cutStore (h : Acts s t) : Acts s (cutStore t) := by
  unfold Machine.cutStore
  split
  · rename_i o ho
    split
    · rename_i hr
      split
      · rename_i he
        exact h.act (.scramblesStore _ _ ho hr he)
      · rename_i he
        simp only [Bool.not_eq_true] at he
        exact h.act (.cutsStore _ _ ho hr he)
    · exact h
  · exact h

theorem assertReset (h : Acts s t) : Acts s (assertReset t) :=
  (foldl (fun u _ => (Acts.refl u).cutBank) _ h).cutStore.act (.clears _)

theorem releaseReset (h : Acts s t) : Acts s (releaseReset t) := h.act (.releases _)

theorem dropReadsAt (h : Acts s t) {p : Port} {b : BankId} : Acts s (dropReadsAt p t b) := by
  have hk : Serves (t.bank b) (dropReads p (t.bank b)) := by
    refine ⟨CreditsOk.mono _ fun _ hm => (List.mem_filter.mp hm).1, rfl, rfl, Or.inl rfl, ?_⟩
    unfold dropReads
    dsimp only
    split
    · rename_i a ha
      refine Or.inr (Or.inr ⟨⟨_, ha⟩, ?_⟩)
      split
      · exact ⟨_, rfl⟩
      · exact ⟨_, rfl⟩
    · exact Or.inl rfl
  unfold Machine.dropReadsAt
  dsimp only
  have hf := foldl (f := fun t i => lowerReads i t) (fun u i => ((Moves.refl u).lowerReads (i := i)).acts)
    (waitingEntries p (t.bank b)) (h.after ((Moves.refl t).serve hk))
  split
  · exact hf.after (Moves.refl _).setReadMark
  · exact hf

@[simp] theorem client_releaseAperture (e : Nat × Option Aperture) (c : ClientId) :
    (releaseAperture t e).client c = t.client c := by
  unfold releaseAperture
  split
  · unfold releaseRecord
    split
    · rfl
    · simp only [State.client, lowerBindings, updImage_clients]
  · rfl

@[simp] theorem resetHeld_releaseAperture (e : Nat × Option Aperture) :
    (releaseAperture t e).resetHeld = t.resetHeld := by
  unfold releaseAperture
  split
  · unfold releaseRecord
    split
    · rfl
    · simp only [lowerBindings, updImage_resetHeld]
  · rfl

/-- Emptying the records one after another leaves a client unit's table and port alone. -/
theorem client_releaseApertures (l : List (Nat × Option Aperture)) (c : ClientId) :
    (l.foldl releaseAperture t).client c = t.client c := by
  induction l generalizing t with
  | nil => rfl
  | cons e l ih => rw [List.foldl_cons, ih, client_releaseAperture]

theorem emptyTable (h : Acts s t) {c : ClientId} : Acts s (emptyTable c t) := by
  refine foldl (fun u e => ?_) _ (h.act (.empties _ c))
  unfold releaseAperture
  split
  · exact (Moves.releaseRecord (Moves.refl u)).acts
  · exact Acts.refl u

/-- After its records are emptied a client port holds none. -/
theorem apertures_emptyTable (c : ClientId) : ((Machine.emptyTable c t).client c).apertures = [] := by
  unfold Machine.emptyTable
  rw [client_releaseApertures, client_setClient_same]

@[simp] theorem resetHeld_lowerAll (l : List Nat) : (l.foldl (fun t i => lowerReads i t) t).resetHeld = t.resetHeld := by
  induction l generalizing t with
  | nil => rfl
  | cons i l ih => rw [List.foldl_cons, ih]; simp only [lowerReads, updImage_resetHeld]

@[simp] theorem resetHeld_dropReadsAt (p : Port) (b : BankId) : (Machine.dropReadsAt p t b).resetHeld = t.resetHeld := by
  unfold Machine.dropReadsAt
  dsimp only
  split <;> simp [setReadMark]

@[simp] theorem resetHeld_emptyTable (c : ClientId) : (Machine.emptyTable c t).resetHeld = t.resetHeld := by
  unfold Machine.emptyTable
  have : ∀ (l : List (Nat × Option Aperture)) (u : State), (l.foldl releaseAperture u).resetHeld = u.resetHeld := by
    intro l
    induction l with
    | nil => intro u; rfl
    | cons e l ih => intro u; rw [List.foldl_cons, ih, resetHeld_releaseAperture]
  rw [this, setClient_resetHeld]

theorem resetReadyPort (h : Acts s t) {c : ClientId} (hh : t.resetHeld = false) : Acts s (resetReadyPort c t) := by
  unfold Machine.resetReadyPort
  dsimp only
  refine raiseMgmt ((emptyTable (foldl (fun u b => (Acts.refl u).dropReadsAt) _ h)).act
    (.resets _ _ (Or.inl (apertures_emptyTable c)) ?_))
  simpa [Four.all] using hh

theorem assertPortReset (h : Acts s t) {c : ClientId} : Acts s (assertPortReset c t) := by
  unfold Machine.assertPortReset
  dsimp only
  have hl := h.act (.lines t c true)
  split
  · exact hl
  · rename_i hh
    simp only [Bool.not_eq_true] at hh
    split
    · exact (hl.resetReadyPort hh).conclude
    · rename_i hs
      refine raiseMgmt (hl.act (.resets _ _ (Or.inr ?_) hh))
      simpa [setLine] using hs
    · exact hl

theorem releasePortReset (h : Acts s t) {c : ClientId} : Acts s (releasePortReset c t) := by
  unfold Machine.releasePortReset
  dsimp only
  have hl := h.act (.lines t c false)
  split
  · exact hl
  · rename_i hh
    simp only [Bool.not_eq_true] at hh
    split
    · rename_i hs
      have hs' : ((setLine c false t).client c).port.state = .resetting := by simpa [setLine] using hs
      split
      · exact (hl.act (.readies _ _ (by rw [hs']; decide) hh)).takesAll
      · exact hl.act (.restarts _ _ hs')
    · exact hl

/-! ## The scanner -/

theorem beginScanSense (h : Acts s t) {n : Nat} : Acts s (beginScanSense n t) := h.act (.sensesIn ..)

theorem settingsRead (h : Acts s t) : Acts s (settingsRead t) :=
  beginScanSense ((h.act (.refreshes t)).act (.scans _ .scanning 0 1))

theorem judge (h : Acts s t) {n : Nat} : Acts s (judge n t) := by
  unfold Machine.judge
  split
  · rename_i im _
    have hc : Acts s (createEntry t.nextIndex (scannedImage t im) t) :=
      h.after (Moves.updExtent (Moves.setImage (Moves.refl t)))
    exact hc.act (.scans _ _ _ _)
  · exact h.act (.scans _ _ _ _)

@[simp] theorem resetHeld_bootBind (c : ClientId) : (bootBind c t).resetHeld = t.resetHeld := by
  unfold bootBind
  dsimp only
  split
  · rfl
  · simp [raise, setLevel]
  · split <;> simp [raise, setLevel, bindAperture, raiseBindings, setAperture]

@[simp] theorem resetHeld_readyClient (c : ClientId) : (readyClient c t).resetHeld = t.resetHeld := by
  simp [readyClient]

@[simp] theorem resetHeld_startClient (c : ClientId) : (startClient t c).resetHeld = t.resetHeld := by
  unfold startClient
  split
  · exact resetHeld_readyClient c
  · rfl

theorem startClient (h : Acts s t) {c : ClientId} (hh : t.resetHeld = false) : Acts s (startClient t c) := by
  unfold Machine.startClient
  split
  · rename_i hs
    exact h.act (.readies _ _ (by rw [hs]; decide) hh)
  · exact h

theorem scanEnds (h : Acts s t) (hh : t.resetHeld = false) : Acts s (scanEnds t) := by
  have h0 : Acts s { t with scanStage := .finished } := h.act (.scans t .finished t.scanPosition t.nextIndex)
  have h4 : Acts s (Four.all.foldl Machine.startClient { t with scanStage := .finished }) :=
    (((h0.startClient hh).startClient (by simpa using hh)).startClient (by simpa using hh)).startClient
      (by simpa using hh)
  exact raiseMgmt (h4.act (.readiesMgmt _ (by simpa [Four.all] using hh)))

theorem scanSenseDone (h : Acts s t) {n : Nat} (hh : t.resetHeld = false) : Acts s (scanSenseDone n t) := by
  unfold Machine.scanSenseDone Machine.scanOn
  have hj := (h.act (.idles t (bankOf n))).judge (n := n)
  split
  · exact hj.beginScanSense
  · refine (hj.scanEnds ?_).takesAll
    unfold Machine.judge
    split
    · simpa [createEntry] using hh
    · simpa using hh

/-! ## Events -/

theorem senseDone (h : Acts s t) {b : BankId} (he : senseDone b t = some u) : Acts s u := by
  unfold Machine.senseDone at he
  split at he
  · rename_i ha
    rw [← Option.some.inj he]
    exact (h.act (.senses _ _ _ _ ha)).after (Moves.refl _).completeRead
  · rename_i ha
    have h1 := fun l => h.act (.senses t b _ l ha)
    dsimp only at he
    split at he
    · rw [← Option.some.inj he]; exact (h1 _).after (Moves.refl _).verifyReadDone
    · rw [← Option.some.inj he]; exact h1 _
  · exact absurd he (by simp)

theorem endProgram (h : Acts s t) {b : BankId} {q : ProgramSequence} {o : ProgramOutcome} :
    Acts s (endProgram b q o t) := h.after (Moves.refl t).quitBank.programEnded

theorem blankCheckDone (h : Acts s t) {b : BankId} (he : blankCheckDone b t = some u) : Acts s u := by
  unfold Machine.blankCheckDone at he
  split at he
  · rename_i ha
    split at he
    · rw [← Option.some.inj he]; exact h.endProgram
    · split at he
      · rw [← Option.some.inj he]; exact h.endProgram
      · rw [← Option.some.inj he]; exact h.act (.enters _ _ _ _ _ ha)
  · exact absurd he (by simp)

theorem programDone (h : Acts s t) {b : BankId} (he : programDone b t = some u) : Acts s u := by
  unfold Machine.programDone at he
  split at he
  · rename_i ha
    rw [← Option.some.inj he]; exact h.act (.enters _ _ _ _ _ ha)
  · exact absurd he (by simp)

theorem programTimedOut (h : Acts s t) {b : BankId} (he : programTimedOut b t = some u) : Acts s u := by
  unfold Machine.programTimedOut at he
  split at he
  · rw [← Option.some.inj he]; exact (h.act (.cuts _ _)).endProgram
  · exact absurd he (by simp)

theorem readBackDone (h : Acts s t) {b : BankId} {e : Bool} (he : readBackDone b e t = some u) : Acts s u := by
  unfold Machine.readBackDone at he
  split at he
  · split at he
    · rw [← Option.some.inj he]; exact (h.act (.writes _ _)).endProgram
    · rw [← Option.some.inj he]; exact (h.act (.cuts _ _)).endProgram
  · exact absurd he (by simp)

theorem eraseCompletes (h : Acts s t) {b : BankId} (he : eraseCompletes b t = some u) : Acts s u := by
  unfold Machine.eraseCompletes at he
  rw [Option.map_eq_some_iff] at he
  obtain ⟨e, _, rfl⟩ := he
  exact ((h.act (.erases _ _)).act (.endsErase _ _)).after (Moves.refl _).eraseDone

theorem eraseTimesOut (h : Acts s t) {b : BankId} (he : eraseTimesOut b t = some u) : Acts s u := by
  unfold Machine.eraseTimesOut at he
  rw [Option.map_eq_some_iff] at he
  obtain ⟨e, _, rfl⟩ := he
  exact (h.scrambleSector.act (.endsErase _ _)).after (Moves.refl _).updSector.eraseDone

theorem suspendDone (h : Acts s t) {b : BankId} (he : suspendDone b t = some u) : Acts s u := by
  unfold Machine.suspendDone at he
  split at he
  · rename_i hr
    rw [← Option.some.inj he]; exact h.act (.suspended _ _ _ hr)
  · exact absurd he (by simp)

theorem lockoutExpires (h : Acts s t) {b : BankId} (he : lockoutExpires b t = some u) : Acts s u := by
  unfold Machine.lockoutExpires at he
  split at he
  · rename_i hr
    split at he
    · rw [← Option.some.inj he]; exact h.act (.expires _ _ _ hr)
    · exact absurd he (by simp)
  · exact absurd he (by simp)

/-- The RUNNING operation is the operation, and runs. -/
theorem of_runningOp {o : SettingsOp} (h : runningOp t = some o) : t.op = some o ∧ o.running = true := by
  unfold runningOp at h
  rw [Option.filter_eq_some_iff] at h
  exact h

theorem endSettings (h : Acts s t) {w : SettingsWork} {st : Status} : Acts s (endSettings w st t) :=
  h.after (Moves.refl t).endSettings

theorem settingsProgramDone (h : Acts s t) {e : Bool} (he : settingsProgramDone e t = some u) : Acts s u := by
  unfold Machine.settingsProgramDone at he
  split at he
  · rename_i ho
    obtain ⟨ho, hr⟩ := of_runningOp ho
    split at he
    · exact absurd he (by simp)
    · rename_i hw
      simp only [Bool.not_eq_true] at hw
      split at he
      · rw [← Option.some.inj he]; exact (h.act (.programsStore _ _ ho hr hw)).endSettings
      · rw [← Option.some.inj he]; exact (h.act (.cutsStore _ _ ho hr hw)).endSettings
  · exact absurd he (by simp)

theorem settingsProgramTimedOut (h : Acts s t) (he : settingsProgramTimedOut t = some u) : Acts s u := by
  unfold Machine.settingsProgramTimedOut at he
  split at he
  · rename_i ho
    obtain ⟨ho, hr⟩ := of_runningOp ho
    split at he
    · exact absurd he (by simp)
    · rename_i hw
      simp only [Bool.not_eq_true] at hw
      rw [← Option.some.inj he]; exact (h.act (.cutsStore _ _ ho hr hw)).endSettings
  · exact absurd he (by simp)

theorem settingsEraseDone (h : Acts s t) (he : settingsEraseDone t = some u) : Acts s u := by
  unfold Machine.settingsEraseDone at he
  split at he
  · rename_i ho
    obtain ⟨ho, hr⟩ := of_runningOp ho
    split at he
    · rename_i hw
      rw [← Option.some.inj he]; exact (h.act (.erasesStore _ _ ho hr hw)).endSettings
    · exact absurd he (by simp)
  · exact absurd he (by simp)

theorem settingsEraseTimedOut (h : Acts s t) (he : settingsEraseTimedOut t = some u) : Acts s u := by
  unfold Machine.settingsEraseTimedOut at he
  split at he
  · rename_i ho
    obtain ⟨ho, hr⟩ := of_runningOp ho
    split at he
    · rename_i hw
      rw [← Option.some.inj he]; exact (h.act (.scramblesStore _ _ ho hr hw)).endSettings
    · exact absurd he (by simp)
  · exact absurd he (by simp)

/-- An event that may come, or leaves the state as it is. -/
theorem getD {o : Option State} (h : Acts s t) (ho : ∀ v, o = some v → Acts s v) : Acts s (o.getD t) := by
  cases o with
  | none => exact h
  | some v => exact ho v rfl

/-- An event with what it makes due, or the state as it is. -/
theorem concluded {o : Option State} (ho : ∀ v, o = some v → Acts s v) : Acts s (concluded o s) := by
  cases o with
  | none => exact Acts.refl s
  | some v => exact (ho v rfl).conclude

/-! ## Time -/

theorem bankLimit (h : Acts s t) {b : BankId} : Acts s (bankLimit t b) := by
  unfold Machine.bankLimit
  split
  · split
    · exact h.getD fun _ hv => h.programTimedOut hv
    · exact h
  · split
    · exact h.getD fun _ hv => h.eraseTimesOut hv
    · exact h
  · split
    · exact h.getD fun _ hv => h.eraseTimesOut hv
    · split
      · exact h.getD fun _ hv => h.suspendDone hv
      · exact h
  · exact h

theorem storeLimit (h : Acts s t) : Acts s (storeLimit t) := by
  unfold Machine.storeLimit
  split
  · split
    · split
      · exact h.getD fun _ hv => h.settingsEraseTimedOut hv
      · exact h
    · split
      · exact h.getD fun _ hv => h.settingsProgramTimedOut hv
      · exact h
  · exact h

theorem tick (h : Acts s t) : Acts s (tick t) := by
  unfold Machine.tick
  split
  · exact h
  · exact (foldl (fun u b => (Acts.refl u).bankLimit) _ (h.act (.passes t))).storeLimit.conclude

end Acts

/-- Every command that gives a next state does so by a chain of elementary changes. -/
theorem exec_acts (i : Instr) (s t : State) (h : exec i s = .next t) : Acts s t := by
  have hs := Acts.refl s
  cases i <;> simp only [exec, Host.Outcome.next.injEq, execPowerOn, execResetAsserted, execResetReleased,
    execPortResetAsserted, execPortResetReleased, execWpChange, execRequestFrameArrival, execResponseFrameSent,
    execIdentify, execPoll, execEntry, execFind, execSector, execJobs, execOpenImage, execWrite, execPublish, execAbandon,
    execRetire, execRevoke, execDiscard, execErase, execClearAccessed, execRead, execReadRaw, execSetLevel, execProtect,
    execUnprotectAll, execBootSet, execBootClear, execBootLock, execBind, execUnbind, execDescribe, execFetch,
    execSenseCompletion, execBlankCheckCompletion, execProgramCompletion, execProgramTimeout, execReadBackCompletion,
    execEraseCompletion, execEraseTimeout, execSuspendCompletion, execLockoutExpiry, execSettingsReadCompletion,
    execScanSenseCompletion, execSettingsProgramCompletion, execSettingsProgramTimeout, execSettingsEraseCompletion,
    execSettingsEraseTimeout] at h <;> subst h
  case powerOn => exact hs.assertReset.releaseReset
  case resetAsserted => exact hs.assertReset
  case resetReleased => exact hs.releaseReset
  case portResetAsserted => exact hs.assertPortReset
  case portResetReleased => exact hs.releasePortReset
  case wpChange => exact hs.act (.wires _ _)
  case requestFrameArrival => exact hs.frameArrives
  case responseFrameSent => exact hs.frameSent
  case senseCompletion => exact .concluded fun _ hv => hs.senseDone hv
  case blankCheckCompletion => exact .concluded fun _ hv => hs.blankCheckDone hv
  case programCompletion => exact .concluded fun _ hv => hs.programDone hv
  case programTimeout => exact .concluded fun _ hv => hs.programTimedOut hv
  case readBackCompletion => exact .concluded fun _ hv => hs.readBackDone hv
  case eraseCompletion => exact .concluded fun _ hv => hs.eraseCompletes hv
  case eraseTimeout => exact .concluded fun _ hv => hs.eraseTimesOut hv
  case suspendCompletion => exact .concluded fun _ hv => hs.suspendDone hv
  case lockoutExpiry => exact .concluded fun _ hv => hs.lockoutExpires hv
  case settingsReadCompletion =>
    refine hs.getD fun v hv => ?_
    unfold settingsReadDone at hv
    split at hv
    · rw [← Option.some.inj hv]; exact hs.settingsRead
    · exact absurd hv (by simp)
  case scanSenseCompletion =>
    refine hs.getD fun v hv => ?_
    unfold scanSenseCompletes at hv
    split at hv
    · rename_i hc
      rw [← Option.some.inj hv]; exact hs.scanSenseDone hc.2.1
    · exact absurd hv (by simp)
  case settingsProgramCompletion => exact .concluded fun _ hv => hs.settingsProgramDone hv
  case settingsProgramTimeout => exact .concluded fun _ hv => hs.settingsProgramTimedOut hv
  case settingsEraseCompletion => exact .concluded fun _ hv => hs.settingsEraseDone hv
  case settingsEraseTimeout => exact .concluded fun _ hv => hs.settingsEraseTimedOut hv
  all_goals exact hs.arrive

/-- Every step is a chain of elementary changes, made with the queue's rest. -/
theorem step_acts (s t : State) (h : step s = .next t) : Acts { s with pending := s.pending.tail } t := by
  unfold step at h
  split at h
  · rename_i hp
    have hs : { s with pending := s.pending.tail } = s := by rw [hp, List.tail_nil, ← hp]
    rw [hs, ← Host.Outcome.next.inj h]
    exact (Acts.refl s).tick
  · rename_i rest hp
    rw [hp, List.tail_cons]
    exact exec_acts _ _ _ h

end Sys2Proof.Machine
end

