-- ==== Sys2Proof/Laws/Lawful.lean ====
section
/-! SUPPORT. Said once: what keeps the laws of the directory. `Kept h held s` is `State.Lawful` in the middle of an event: `h`
is the work of the management port that has left its bank and is not yet answered, `held` the aperture records that have
left their table and are not yet counted off. -/

namespace Sys2Proof.Machine

/-! ## Counting BOUND records -/

/-- How many records of a list are BOUND to an entry. -/
def boundIn (i : Nat) (l : List (Nat × Option Aperture)) : Nat := (l.filter fun e => boundTo i e.2).length

/-- One record more. -/
theorem boundIn_cons (i : Nat) (e : Nat × Option Aperture) (l : List (Nat × Option Aperture)) :
    boundIn i (e :: l) = (if boundTo i e.2 = true then 1 else 0) + boundIn i l := by
  unfold boundIn
  rw [List.filter_cons]
  split
  · rw [List.length_cons]; omega
  · omega

theorem totalBound_eq (i : Nat) (s : State) : totalBound i s = boundIn i (s.client .zero).apertures
    + boundIn i (s.client .one).apertures + boundIn i (s.client .two).apertures + boundIn i (s.client .three).apertures := by
  simp only [totalBound, Four.all, List.foldl, boundRecords, boundIn, Nat.zero_add]

/-- A table lists what it reads. -/
theorem Table.mem_of_get {α : Type} {l : List (Nat × Option α)} {a : Nat} {r : α} (h : Table.get none l a = some r) :
    (a, some r) ∈ l := by
  induction l with
  | nil => exact absurd h (by simp [Table.get])
  | cons e l ih =>
    obtain ⟨k, v⟩ := e
    simp only [Table.get] at h
    split at h
    · rename_i hk; subst hk; rw [h]; exact List.mem_cons_self
    · exact List.mem_cons_of_mem _ (ih h)

/-- A canonical table reads what it lists. -/
theorem Table.get_of_mem {α : Type} [DecidableEq α] {l : List (Nat × Option α)} {lo a : Nat} {v : Option α}
    (hw : Table.wfFrom none lo l = true) (h : (a, v) ∈ l) : Table.get none l a = v ∧ lo ≤ a ∧ v ≠ none := by
  induction l generalizing lo with
  | nil => exact absurd h List.not_mem_nil
  | cons e l ih =>
    obtain ⟨k, w⟩ := e
    simp only [Table.wfFrom, Bool.and_eq_true, decide_eq_true_eq] at hw
    rcases List.mem_cons.mp h with he | hm
    · cases he
      exact ⟨by simp [Table.get], hw.1.1, hw.1.2⟩
    · obtain ⟨h1, h2, h3⟩ := ih hw.2 hm
      refine ⟨?_, by omega, h3⟩
      have hne : ¬ a = k := by omega
      simp only [Table.get, hne, if_false]
      exact h1

/-- A record that replaces another in a canonical table. -/
theorem boundIn_put (i : Nat) {l : List (Nat × Option Aperture)} {lo : Nat} (a : Nat) (v : Option Aperture)
    (hw : Table.wfFrom none lo l = true) :
    boundIn i (Table.put none l a v) + (if boundTo i (Table.get none l a) = true then 1 else 0)
      = boundIn i l + (if boundTo i v = true then 1 else 0) := by
  induction l generalizing lo with
  | nil =>
    simp only [Table.put, Table.get]
    by_cases hv : v = none
    · rw [if_pos hv, hv]; rfl
    · rw [if_neg hv, boundIn_cons]; simp [boundTo, boundIn]
  | cons e l ih =>
    have hw' := hw
    simp only [Table.wfFrom, Bool.and_eq_true, decide_eq_true_eq] at hw'
    simp only [Table.put]
    split
    · rename_i hlt
      have hg : Table.get none (e :: l) a = none := by
        have hne : ¬ a = e.1 := by omega
        simp only [Table.get, hne, if_false]
        exact Table.get_below hw'.2 (by omega)
      rw [hg]
      split
      · rename_i hv; rw [hv]
      · rw [boundIn_cons i (a, v)]; simp [boundTo]; omega
    · split
      · rename_i heq
        simp only [Table.get, heq, if_true]
        split
        · rename_i hv
          have h0 : boundTo i (none : Option Aperture) = false := rfl
          rw [hv, boundIn_cons, h0]
          simp only [Bool.false_eq_true, if_false]
          exact Nat.add_comm _ _
        · rw [boundIn_cons, boundIn_cons]; simp only; omega
      · rename_i hne
        simp only [Table.get, hne, if_false]
        rw [boundIn_cons, boundIn_cons]
        have := ih hw'.2
        dsimp only
        omega

/-! ## The laws in the middle of an event -/

/-- The laws in the middle of an event. -/
structure Kept (h : Nat) (held : List (Nat × Option Aperture)) (s : State) : Prop where
  dirWf : Table.wf none s.dir = true
  sectorsWf : Table.wf {} s.sectors = true
  tablesWf : ∀ c, Table.wf none (s.client c).apertures = true
  names : ∀ i j im jm name, s.image i = some im → s.image j = some jm → im.name = some name → jm.name = some name →
    im.generation = jm.generation → i = j
  retiring : ∀ i im, s.image i = some im → im.state = .retiring → im.bindings ≠ 0 ∨ im.reads ≠ 0
  counted : ∀ i im, s.image i = some im → im.bindings = totalBound i s + boundIn i held
  bound : ∀ c ap r, s.aperture c ap = some r → r.revoked = false → r.Agrees s
  inHand : ∀ a r, (a, some r) ∈ held → r.revoked = false → r.Agrees s
  owners : ∀ n i, (s.sector n).owner = some i ↔ ∃ im, s.image i = some im ∧ im.first ≤ n ∧ n < im.first + im.count
  jobs : ∀ n j, s.job n = some j → j.work.Held s n
  service : mgmtWork s + h ≤ if s.mgmt.inService then 1 else 0
  sequences : ∀ b q, (s.bank b).hasSequence q → q.issuer.Admitted s
  closed : s.scanStage ≠ .finished → (∀ p, (s.port p).state ≠ .ready) ∧ s.mgmt.inService = false
  unread : s.scanStage = .readingSettings → ∀ i, s.image i = none
  scanned : s.scanStage = .scanning → (∀ i, s.nextIndex ≤ i → s.image i = none)
    ∧ ∀ i im, s.image i = some im → im.first + im.count ≤ s.scanPosition

theorem State.Lawful.kept {s : State} (h : s.Lawful) (hc : s.Canonical) : Kept 0 [] s :=
  ⟨hc.dir, hc.sectors, hc.apertures, h.names, h.retiring, h.counted, h.bound, fun _ _ hm => absurd hm List.not_mem_nil,
    h.owners, h.jobs, h.service, h.sequences, h.closed, h.unread, h.scanned⟩

namespace Kept

variable {h : Nat} {held : List (Nat × Option Aperture)} {s t : State}

theorem lawful (k : Kept 0 [] s) : s.Lawful :=
  ⟨k.names, k.retiring, k.counted, k.bound, k.owners, k.jobs, k.service, k.sequences, k.closed, k.unread, k.scanned⟩

theorem image_eq (hd : t.dir = s.dir) (i : Nat) : t.image i = s.image i := by unfold State.image; rw [hd]

theorem agrees (hd : t.dir = s.dir) (r : Aperture) : r.Agrees t ↔ r.Agrees s := by
  unfold Aperture.Agrees; rw [image_eq hd]

theorem held_iff (hd : t.dir = s.dir) (n : Nat) (w : JobWork) : w.Held t n ↔ w.Held s n := by
  cases w <;> simp only [JobWork.Held, image_eq hd]

theorem admitted (hd : t.dir = s.dir) (hs : ∀ n, (t.sector n).owner = (s.sector n).owner) (x : Issuer) :
    x.Admitted t ↔ x.Admitted s := by
  cases x <;> simp only [Issuer.Admitted, image_eq hd, hs]

theorem job_eq (hj : t.jobs = s.jobs) (n : Nat) : t.job n = s.job n := by unfold State.job; rw [hj]

theorem totalBound_congr (ha : ∀ c, (t.client c).apertures = (s.client c).apertures) (i : Nat) :
    totalBound i t = totalBound i s := by simp only [totalBound_eq, ha]

/-- A change that leaves the directory, the owners, the tables, the jobs' work and the banks' work as they are. -/
theorem congr (k : Kept h held s) (hd : t.dir = s.dir := by rfl) (hw : Table.wf {} t.sectors = true)
    (hs : ∀ n, (t.sector n).owner = (s.sector n).owner)
    (ha : ∀ c, (t.client c).apertures = (s.client c).apertures)
    (hj : ∀ n j, t.job n = some j → j.work.Held s n)
    (hm : mgmtWork t = mgmtWork s)
    (hq : ∀ b q, (t.bank b).hasSequence q → (s.bank b).hasSequence q)
    (hp : ∀ p, (t.port p).state = .ready → (s.port p).state = .ready ∨ s.scanStage = .finished)
    (hi : t.mgmt.inService = s.mgmt.inService)
    (h1 : t.scanStage = s.scanStage := by rfl) (h2 : t.scanPosition = s.scanPosition := by rfl)
    (h3 : t.nextIndex = s.nextIndex := by rfl) : Kept h held t := by
  have hap : ∀ c ap, t.aperture c ap = s.aperture c ap := fun c ap => by unfold State.aperture; rw [ha]
  constructor
  · rw [hd]; exact k.dirWf
  · exact hw
  · intro c; rw [ha]; exact k.tablesWf c
  · simp only [image_eq hd]; exact k.names
  · simp only [image_eq hd]; exact k.retiring
  · simp only [image_eq hd, totalBound_congr ha]; exact k.counted
  · simp only [agrees hd, hap]; exact k.bound
  · simp only [agrees hd]; exact k.inHand
  · simp only [hs, image_eq hd]; exact k.owners
  · intro n j hn; rw [held_iff hd]; exact hj n j hn
  · rw [hm, hi]; exact k.service
  · intro b q hb; rw [admitted hd hs]; exact k.sequences b q (hq b q hb)
  · rw [h1, hi]
    intro hf
    refine ⟨fun p hr => ?_, (k.closed hf).2⟩
    rcases hp p hr with h | h
    · exact (k.closed hf).1 p h
    · exact hf h
  · simp only [h1, image_eq hd]; exact k.unread
  · simp only [h1, h2, h3, image_eq hd]; exact k.scanned

end Kept

/-! ## The work of the management port -/

/-- The work in a waiting list. -/
def workOf (l : List Access) : Nat := (l.map Access.mgmtWork).sum

theorem mgmtWork_eq (k : Bank) : k.mgmtWork = k.activity.mgmtWork + workOf k.waiting := rfl

theorem workOf_cons (a : Access) (l : List Access) : workOf (a :: l) = a.mgmtWork + workOf l := by
  simp only [workOf, List.map_cons, List.sum_cons]

theorem workOf_append (l : List Access) (a : Access) : workOf (l ++ [a]) = workOf l + a.mgmtWork := by
  simp only [workOf, List.map_append, List.map_cons, List.map_nil, List.sum_append, List.sum_cons, List.sum_nil, Nat.add_zero]

/-- The access that leaves a list takes its work with it. -/
theorem workOf_eraseP {p : Access → Bool} {l : List Access} {a : Access} (h : l.find? p = some a) :
    workOf (l.eraseP p) + a.mgmtWork = workOf l := by
  induction l with
  | nil => exact absurd h (by simp)
  | cons e l ih =>
    rw [List.find?_cons] at h
    split at h
    · rename_i hp
      cases h
      rw [List.eraseP_cons_of_pos hp, workOf_cons]; omega
    · rename_i hp
      rw [List.eraseP_cons_of_neg (by simpa using hp), workOf_cons, workOf_cons]
      have := ih h
      omega

/-- A list from which accesses are taken has no more work. -/
theorem workOf_filter (p : Access → Bool) (l : List Access) : workOf (l.filter p) ≤ workOf l := by
  induction l with
  | nil => exact Nat.le_refl _
  | cons e l ih =>
    rw [List.filter_cons, workOf_cons]
    split
    · rw [workOf_cons]; omega
    · omega

/-- An access that a filter takes takes its work with it. -/
theorem workOf_filter_of_mem {p : Access → Bool} {l : List Access} {a : Access} (hm : a ∈ l) (hp : p a = false) :
    workOf (l.filter p) + a.mgmtWork ≤ workOf l := by
  induction l with
  | nil => exact absurd hm List.not_mem_nil
  | cons e l ih =>
    rw [workOf_cons]
    rcases List.mem_cons.mp hm with he | hm
    · subst he
      rw [List.filter_cons_of_neg (by simp [hp])]
      have := workOf_filter p l
      omega
    · rw [List.filter_cons]
      have := ih hm
      split
      · rw [workOf_cons]; omega
      · omega

@[simp] theorem mgmtWork_credited (a : Access) : a.credited.mgmtWork = a.mgmtWork := by
  cases a with
  | read _ => rfl
  | media m _ => cases m <;> rfl

theorem workOf_credited (l : List Access) : workOf (l.map Access.credited) = workOf l := by
  simp only [workOf, List.map_map, Function.comp_def, mgmtWork_credited]

/-- The work of the part when a bank's record is replaced. -/
theorem mgmtWork_setBank (s : State) (b : BankId) (k : Bank) :
    mgmtWork (s.setBank b k) + (s.bank b).mgmtWork = mgmtWork s + k.mgmtWork := by
  have ho : (s.setBank b k).op = s.op := rfl
  simp only [mgmtWork, ho, bank_setBank]
  cases b <;> simp <;> omega

/-- With no work of the management port in the part, the program sequences are those of jobs. -/
theorem isRequest_of_work {s : State} (h0 : mgmtWork s = 0) {b : BankId} {q : ProgramSequence}
    (hq : (s.bank b).hasSequence q) : q.issuer.isRequest = false := by
  have hb : (s.bank b).mgmtWork = 0 := by
    unfold mgmtWork at h0
    cases b <;> omega
  rw [mgmtWork_eq] at hb
  cases hr : q.issuer.isRequest with
  | false => rfl
  | true =>
    rcases hq with ha | ⟨c, hm⟩
    · unfold Activity.sequence at ha
      split at ha
      · rename_i q' f he
        cases ha
        rw [he] at hb
        simp only [Activity.mgmtWork, hr, if_true] at hb
        omega
      · exact absurd ha (by simp)
    · have h1 := workOf_filter_of_mem (p := fun _ => false) hm rfl
      have h2 : (Access.media (.program q) c).mgmtWork = 1 := by simp only [Access.mgmtWork, hr, if_true]
      omega

/-- A program sequence of a job needs nothing of the directory. -/
theorem Issuer.Admitted.of_job {s : State} {x : Issuer} (h : x.isRequest = false) : x.Admitted s := by
  cases x <;> first | exact trivial | exact absurd h (by simp [Issuer.isRequest])

namespace Kept

variable {h h' : Nat} {held held' : List (Nat × Option Aperture)} {s t : State}

theorem mono (k : Kept h held s) (hl : h' ≤ h) : Kept h' held s :=
  { k with service := by have := k.service; omega }

/-- With work in hand there is none in the banks. -/
theorem work_zero (k : Kept 1 held s) : mgmtWork s = 0 := by
  have := k.service
  split at this <;> omega

/-! ### Banks -/

/-- A bank's record is replaced: its work goes into the hand or comes from there. -/
theorem setBank (k : Kept h held s) {b : BankId} {v : Bank} (hw : v.mgmtWork + h' ≤ (s.bank b).mgmtWork + h)
    (hq : ∀ q, v.hasSequence q → (s.bank b).hasSequence q ∨ q.issuer.Admitted s) : Kept h' held (s.setBank b v) := by
  have hwork := mgmtWork_setBank s b v
  refine { dirWf := k.dirWf, sectorsWf := k.sectorsWf, tablesWf := k.tablesWf, names := k.names, retiring := k.retiring,
           counted := k.counted, bound := k.bound, inHand := k.inHand, owners := k.owners, jobs := ?_, service := ?_,
           sequences := ?_, closed := ?_, unread := k.unread, scanned := k.scanned }
  · intro n j hn
    exact (held_iff rfl n j.work).mpr (k.jobs n j hn)
  · have := k.service
    show mgmtWork (s.setBank b v) + h' ≤ if s.mgmt.inService then 1 else 0
    omega
  · intro b' q hb
    rw [admitted (t := s.setBank b v) rfl (fun _ => rfl)]
    rw [bank_setBank] at hb
    split at hb
    · rcases hq q hb with h1 | h1
      · exact k.sequences b q h1
      · exact h1
    · exact k.sequences b' q hb
  · intro hf
    refine ⟨fun p => ?_, (k.closed hf).2⟩
    rw [setBank_port]
    exact (k.closed hf).1 p

/-- A bank's record is replaced, with no new sequence and no more work. -/
theorem serve (k : Kept h held s) {b : BankId} {v : Bank} (hw : v.mgmtWork ≤ (s.bank b).mgmtWork)
    (hq : ∀ q, v.hasSequence q → (s.bank b).hasSequence q) : Kept h held (s.setBank b v) :=
  k.setBank (by omega) fun q hb => Or.inl (hq q hb)

/-- An access joins a bank's list. -/
theorem join (k : Kept h held s) {b : BankId} {a : Access} (hw : h' + a.mgmtWork ≤ h)
    (hq : ∀ q c, a = .media (.program q) c → q.issuer.Admitted s) : Kept h' held (join b a s) := by
  refine k.setBank ?_ ?_
  · rw [mgmtWork_eq, mgmtWork_eq]
    simp only [workOf_append]
    omega
  · intro q hb
    rcases hb with h1 | ⟨c, hm⟩
    · exact Or.inl (Or.inl h1)
    · rcases List.mem_append.mp hm with h2 | h2
      · exact Or.inl (Or.inr ⟨c, h2⟩)
      · exact Or.inr (hq q c (List.mem_singleton.mp h2).symm)

/-! ### Ports -/

/-- A port's record changes, its state and the service at the management port as they were. -/
theorem setPort (k : Kept h held s) {p : Port} {u : PortUnit}
    (hs : u.state = .ready → (s.port p).state = .ready ∨ s.scanStage = .finished)
    (hi : p = .mgmt → u.inService = s.mgmt.inService) : Kept h held (s.setPort p u) := by
  refine k.congr (by cases p <;> rfl) (by cases p <;> exact k.sectorsWf) (fun n => by cases p <;> rfl) (fun c => ?_) ?_ ?_ ?_ ?_ ?_
    (by cases p <;> rfl) (by cases p <;> rfl) (by cases p <;> rfl)
  · rw [client_setPort]; split <;> rfl
  · intro n j hn
    refine k.jobs n j ?_
    rw [← hn]; exact (job_eq (by cases p <;> rfl) n).symm
  · unfold mgmtWork
    simp only [setPort_bank]
    cases p <;> rfl
  · intro b q hb
    rw [setPort_bank] at hb
    exact hb
  · intro q hr
    rw [port_setPort] at hr
    split at hr
    · rename_i he; rw [he]; exact hs hr
    · exact Or.inl hr
  · cases p with
    | mgmt => exact hi rfl
    | client c => rfl

@[simp] theorem state_place (u : PortUnit) (r : Response) : (u.place r).state = u.state := by
  unfold PortUnit.place; split <;> rfl

@[simp] theorem inService_place (u : PortUnit) (r : Response) : (u.place r).inService = u.inService := by
  unfold PortUnit.place; split <;> rfl

@[simp] theorem state_respond (u : PortUnit) (st : Status) (rs : List Byte) : (u.respond st rs).state = u.state := by
  unfold PortUnit.respond; split
  · rw [state_place]
  · rfl

theorem respondClient (k : Kept h held s) {c : ClientId} {st : Status} {rs : List Byte} :
    Kept h held (respond (.client c) st rs s) :=
  k.setPort (fun hr => Or.inl (by rw [state_respond] at hr; exact hr)) (fun e => by cases e)

/-- The response of a request leaves with its work done. -/
theorem respondMgmt (k : Kept 1 held s) {st : Status} {rs : List Byte} : Kept 0 held (respond .mgmt st rs s) := by
  have h0 := k.work_zero
  refine { dirWf := k.dirWf, sectorsWf := k.sectorsWf, tablesWf := k.tablesWf, names := k.names, retiring := k.retiring,
           counted := k.counted, bound := k.bound, inHand := k.inHand, owners := k.owners, jobs := ?_, service := ?_,
           sequences := ?_, closed := ?_, unread := k.unread, scanned := k.scanned }
  · intro n j hn
    exact (held_iff rfl n j.work).mpr (k.jobs n j hn)
  · show mgmtWork s + 0 ≤ _
    rw [h0]; exact Nat.zero_le _
  · intro b q hb
    exact (admitted rfl (fun _ => rfl) _).mpr (k.sequences b q hb)
  · intro hf
    obtain ⟨h1, h2⟩ := k.closed hf
    have := k.service
    rw [h2] at this
    simp at this

/-- A request in service that is done without a response. -/
theorem respond (k : Kept h held s) {p : Port} {st : Status} {rs : List Byte} (hp : p = .mgmt → h = 1) :
    Kept (if p = .mgmt then 0 else h) held (respond p st rs s) := by
  cases p with
  | mgmt => rw [if_pos rfl]; rw [hp rfl] at k; exact k.respondMgmt
  | client c => rw [if_neg (by simp)]; exact k.respondClient

theorem raise (k : Kept h held s) {p : Port} {c : Cause} : Kept h held (raise p c s) :=
  k.setPort (fun hr => Or.inl hr) (fun e => by subst e; rfl)

theorem setReadMark (k : Kept h held s) {p : Port} {v : Bool} : Kept h held (setReadMark p v s) :=
  k.setPort (fun hr => Or.inl hr) (fun e => by subst e; rfl)

/-! ### The directory -/

theorem image_setImage (hw : Table.wf none s.dir = true) (i j : Nat) (o : Option Image) :
    (s.setImage i o).image j = if j = i then o else s.image j := Table.get_put hw i j o

/-- An entry whose binding count is 0 has no BOUND record. -/
theorem unbound_of_zero (k : Kept h held s) {i : Nat} {im : Image} (hi : s.image i = some im) (h0 : im.bindings = 0) :
    totalBound i s = 0 ∧ boundIn i held = 0 := by
  have := k.counted i im hi
  omega

/-- A BOUND record of a table is counted. -/
theorem boundIn_pos {i : Nat} {l : List (Nat × Option Aperture)} {a : Nat} {r : Aperture} (hm : (a, some r) ∈ l)
    (hr : r.revoked = false) (he : r.entry = i) : 0 < boundIn i l := by
  unfold boundIn
  refine List.length_pos_of_mem (List.mem_filter.mpr ⟨hm, ?_⟩)
  simp [boundTo, hr, he]

theorem boundIn_le_total (i : Nat) (c : ClientId) : boundIn i (s.client c).apertures ≤ totalBound i s := by
  rw [totalBound_eq]
  cases c <;> omega

/-- An entry that is neither READY nor RETIRING has no BOUND record, and its binding count is 0. -/
theorem unbound (k : Kept h held s) {i : Nat} {im : Image} (hi : s.image i = some im)
    (hs : im.state ≠ .ready ∧ im.state ≠ .retiring) : im.bindings = 0 := by
  have hnone : ∀ l : List (Nat × Option Aperture), (∀ a r, (a, some r) ∈ l → r.revoked = false → r.Agrees s) →
      boundIn i l = 0 := by
    intro l hl
    unfold boundIn
    rw [List.length_eq_zero_iff, List.filter_eq_nil_iff]
    rintro ⟨a, o⟩ hm hb
    cases o with
    | none => exact absurd hb (by simp [boundTo])
    | some r =>
      simp only [boundTo, Bool.and_eq_true, Bool.not_eq_true', beq_iff_eq] at hb
      obtain ⟨im', h1, h2, -⟩ := hl a r hm hb.1
      rw [hb.2, hi] at h1
      cases h1
      rcases h2 with h2 | h2
      · exact hs.1 h2
      · exact hs.2 h2
  have htab : ∀ c, boundIn i (s.client c).apertures = 0 := by
    intro c
    refine hnone _ fun a r hm hr => k.bound c a r ?_ hr
    exact (Table.get_of_mem (k.tablesWf c) hm).1
  rw [k.counted i im hi, totalBound_eq, htab, htab, htab, htab, hnone held k.inHand]

/-- A FREE entry has no BOUND record. -/
theorem total_of_free (k : Kept h held s) {i : Nat} (hi : s.image i = none) : totalBound i s = 0 ∧ boundIn i held = 0 := by
  have hnone : ∀ l : List (Nat × Option Aperture), (∀ a r, (a, some r) ∈ l → r.revoked = false → r.Agrees s) →
      boundIn i l = 0 := by
    intro l hl
    unfold boundIn
    rw [List.length_eq_zero_iff, List.filter_eq_nil_iff]
    rintro ⟨a, o⟩ hm hb
    cases o with
    | none => exact absurd hb (by simp [boundTo])
    | some r =>
      simp only [boundTo, Bool.and_eq_true, Bool.not_eq_true', beq_iff_eq] at hb
      obtain ⟨im', h1, -⟩ := hl a r hm hb.1
      rw [hb.2, hi] at h1
      cases h1
  have htab : ∀ c, boundIn i (s.client c).apertures = 0 := by
    intro c
    refine hnone _ fun a r hm hr => k.bound c a r ?_ hr
    exact (Table.get_of_mem (k.tablesWf c) hm).1
  exact ⟨by rw [totalBound_eq, htab, htab, htab, htab], hnone held k.inHand⟩

/-- An entry changes, keeping its identity and extent. -/
theorem setImage (k : Kept h held s) {i : Nat} {im im' : Image} (hi : s.image i = some im)
    (hid : im'.name = im.name ∧ im'.generation = im.generation ∧ im'.first = im.first ∧ im'.count = im.count
      ∧ im'.kind = im.kind)
    (hret : im'.state = .retiring → im'.bindings ≠ 0 ∨ im'.reads ≠ 0)
    (hcnt : im'.bindings + boundIn i held = im.bindings + boundIn i held')
    (hoth : ∀ j, j ≠ i → boundIn j held' = boundIn j held)
    (hheld : ∀ a r, (a, some r) ∈ held' → r.revoked = false → r.Agrees s)
    (hb : ((im'.state = .ready ∨ im'.state = .retiring) ∧ im'.published = im.published) ∨ im'.bindings = 0)
    (hj : ∀ n, (im.state = .verifying n ∨ im.state = .discarding n) → im'.state = im.state ∨ s.job n = none)
    (hq : im'.state = im.state ∨ mgmtWork s = 0 ∨ (discardable im.state = false ∧ im.state ≠ .ready)) :
    Kept h held' (s.setImage i (some im')) := by
  have hget := fun j => image_setImage k.dirWf i j (some im')
  have htb : ∀ j, totalBound j (s.setImage i (some im')) = totalBound j s := fun j => rfl
  have hcount : im'.bindings = totalBound i s + boundIn i held' := by
    have := k.counted i im hi; omega
  have hag : ∀ r : Aperture, r.Agrees s → (r.entry = i → im'.bindings ≠ 0) → r.Agrees (s.setImage i (some im')) := by
    rintro r ⟨jm, h1, h2, h3, h4, h5, h6, h7, h8⟩ hnz
    by_cases he : r.entry = i
    · rw [he] at h1
      rw [hi] at h1
      cases h1
      have hb' := hb.resolve_right (hnz he)
      refine ⟨im', ?_, hb'.1, ?_⟩
      · rw [hget, if_pos he]
      · rw [hid.1, hid.2.1, hid.2.2.1, hid.2.2.2.1, hid.2.2.2.2, hb'.2]
        exact ⟨h3, h4, h5, h6, h7, h8⟩
    · exact ⟨jm, by rw [hget, if_neg he]; exact h1, h2, h3, h4, h5, h6, h7, h8⟩
  refine { dirWf := Table.wf_put k.dirWf, sectorsWf := k.sectorsWf, tablesWf := k.tablesWf, names := ?_, retiring := ?_,
           counted := ?_, bound := ?_, inHand := ?_, owners := ?_, jobs := ?_, service := k.service,
           sequences := ?_, closed := ?_, unread := ?_, scanned := ?_ }
  · intro a b am bm name ha hb'
    have hback : ∀ a am, (s.setImage i (some im')).image a = some am →
        ∃ am', s.image a = some am' ∧ am.name = am'.name ∧ am.generation = am'.generation := by
      intro a am ha
      rw [hget] at ha
      split at ha
      · rename_i he; cases ha; subst he; exact ⟨im, hi, hid.1, hid.2.1⟩
      · exact ⟨am, ha, rfl, rfl⟩
    obtain ⟨am', h1, h2, h3⟩ := hback a am ha
    obtain ⟨bm', h4, h5, h6⟩ := hback b bm hb'
    rw [h2, h3, h5, h6]
    exact k.names a b am' bm' name h1 h4
  · intro j jm hjm
    rw [hget] at hjm
    split at hjm
    · cases hjm; exact hret
    · exact k.retiring j jm hjm
  · intro j jm hjm
    rw [htb]
    rw [hget] at hjm
    split at hjm
    · rename_i he; cases hjm; subst he; exact hcount
    · rename_i he; rw [hoth j he]; exact k.counted j jm hjm
  · intro c ap r hr hrev
    refine hag r (k.bound c ap r hr hrev) fun he => ?_
    have h1 : 0 < boundIn i (s.client c).apertures := boundIn_pos (Table.mem_of_get hr) hrev he
    have h2 := boundIn_le_total (s := s) i c
    omega
  · intro a r hm hrev
    refine hag r (hheld a r hm hrev) fun he => ?_
    have := boundIn_pos hm hrev he
    omega
  · intro n j
    refine (k.owners n j).trans ?_
    rw [hget]
    split
    · rename_i he
      subst he
      constructor
      · rintro ⟨jm, h1, h2⟩
        rw [hi] at h1; cases h1
        exact ⟨im', rfl, by rw [hid.2.2.1, hid.2.2.2.1]; exact h2⟩
      · rintro ⟨jm, h1, h2⟩
        cases h1
        exact ⟨im, hi, by rw [hid.2.2.1, hid.2.2.2.1] at h2; exact h2⟩
    · exact Iff.rfl
  · intro n j hn
    have hold := k.jobs n j hn
    have hne : s.job n ≠ none := by
      have hn' : s.job n = some j := hn
      rw [hn']; simp
    cases hw : j.work with
    | verify a m c r =>
      rw [hw] at hold
      obtain ⟨jm, h1, h2⟩ := hold
      by_cases he : a = i
      · rw [he] at h1
        rw [hi] at h1; cases h1
        have h3 := (hj n (Or.inl h2)).resolve_right hne
        exact ⟨im', by rw [hget, if_pos he], by rw [h3]; exact h2⟩
      · exact ⟨jm, by rw [hget, if_neg he]; exact h1, h2⟩
    | discard a m =>
      rw [hw] at hold
      obtain ⟨jm, h1, h2⟩ := hold
      by_cases he : a = i
      · rw [he] at h1
        rw [hi] at h1; cases h1
        have h3 := (hj n (Or.inr h2)).resolve_right hne
        exact ⟨im', by rw [hget, if_pos he], by rw [h3]; exact h2⟩
      · exact ⟨jm, by rw [hget, if_neg he]; exact h1, h2⟩
    | erase _ => trivial
  · intro b q hb'
    have hold := k.sequences b q hb'
    rcases hq with h1 | h1 | h1
    · have hst : ∀ a (P : ImageState → Prop), (∃ am, s.image a = some am ∧ P am.state) →
          ∃ am, (s.setImage i (some im')).image a = some am ∧ P am.state := by
        rintro a P ⟨am, h2, h3⟩
        by_cases he : a = i
        · rw [he, hi] at h2; cases h2
          exact ⟨im', by rw [hget, if_pos he], by rw [h1]; exact h3⟩
        · exact ⟨am, by rw [hget, if_neg he]; exact h2, h3⟩
      cases hx : q.issuer with
      | openHeader a am =>
        rw [hx] at hold
        obtain ⟨h2, h3, h4, ⟨nm, h5, h6⟩, h7⟩ := hold
        have he : a ≠ i := fun e => by rw [e, hi] at h2; cases h2
        refine ⟨by rw [hget, if_neg he]; exact h2, h3, h4, ⟨nm, h5, fun j jm hjm hn => ?_⟩, h7⟩
        rw [hget] at hjm
        split at hjm
        · cases hjm; rw [hid.2.1]; rw [hid.1] at hn; exact h6 i im hi hn
        · exact h6 j jm hjm hn
      | write => trivial
      | publishedMark _ => trivial
      | publishFields a _ _ => rw [hx] at hold; exact hst a (· = .opened) hold
      | retiredMark a => rw [hx] at hold; exact hst a (· = .ready) hold
      | discardMark a => rw [hx] at hold; exact hst a (discardable · = true) hold
    · exact .of_job (isRequest_of_work h1 hb')
    · have hst : ∀ a (P : ImageState → Prop), ¬ P im.state → (∃ am, s.image a = some am ∧ P am.state) →
          ∃ am, (s.setImage i (some im')).image a = some am ∧ P am.state := by
        rintro a P hP ⟨am, h2, h3⟩
        by_cases he : a = i
        · rw [he, hi] at h2; cases h2
          exact absurd h3 hP
        · exact ⟨am, by rw [hget, if_neg he]; exact h2, h3⟩
      cases hx : q.issuer with
      | openHeader a am =>
        rw [hx] at hold
        obtain ⟨h2, h3, h4, ⟨nm, h5, h6⟩, h7⟩ := hold
        have he : a ≠ i := fun e => by rw [e, hi] at h2; cases h2
        refine ⟨by rw [hget, if_neg he]; exact h2, h3, h4, ⟨nm, h5, fun j jm hjm hn => ?_⟩, h7⟩
        rw [hget] at hjm
        split at hjm
        · cases hjm; rw [hid.2.1]; rw [hid.1] at hn; exact h6 i im hi hn
        · exact h6 j jm hjm hn
      | write => trivial
      | publishedMark _ => trivial
      | publishFields a _ _ =>
        rw [hx] at hold
        exact hst a (· = .opened) (fun e => by rw [e] at h1; simp [discardable] at h1) hold
      | retiredMark a => rw [hx] at hold; exact hst a (· = .ready) h1.2 hold
      | discardMark a => rw [hx] at hold; exact hst a (discardable · = true) (by rw [h1.1]; simp) hold
  · intro hf
    exact k.closed hf
  · intro hf j
    have := k.unread hf i
    rw [hi] at this; cases this
  · intro hf
    obtain ⟨h1, h2⟩ := k.scanned hf
    refine ⟨fun j hle => ?_, fun j jm hjm => ?_⟩
    · rw [hget]
      split
      · rename_i he; have := h1 j hle; rw [he, hi] at this; cases this
      · exact h1 j hle
    · rw [hget] at hjm
      split at hjm
      · cases hjm; rw [hid.2.2.1, hid.2.2.2.1]; exact h2 i im hi
      · exact h2 j jm hjm


/-- An entry changes in its reads in flight or its accessed flag, and may become RETIRED. -/
theorem updImage (k : Kept h held s) {i : Nat} {f : Image → Image}
    (hf : ∀ im : Image, (f im).name = im.name ∧ (f im).generation = im.generation ∧ (f im).first = im.first
      ∧ (f im).count = im.count ∧ (f im).kind = im.kind ∧ (f im).published = im.published ∧ (f im).bindings = im.bindings
      ∧ ((f im).state = im.state ∨ (im.state = .retiring ∧ im.bindings = 0 ∧ (f im).state = .retired))
      ∧ ((im.state = .retiring → im.bindings ≠ 0 ∨ im.reads ≠ 0) → (f im).state = .retiring →
          (f im).bindings ≠ 0 ∨ (f im).reads ≠ 0)) : Kept h held (s.updImage i f) := by
  unfold State.updImage
  split
  · rename_i im hi
    obtain ⟨h1, h2, h3, h4, h5, h6, h7, h8, h9⟩ := hf im
    refine k.setImage hi ⟨h1, h2, h3, h4, h5⟩ (h9 (k.retiring i im hi)) (by rw [h7]) (fun _ _ => rfl) k.inHand ?_ ?_ ?_
    · by_cases hr : im.state = .ready ∨ im.state = .retiring
      · rcases h8 with h8 | ⟨_, h8, _⟩
        · rw [h8]; exact Or.inl ⟨hr, h6⟩
        · rw [h7]; exact Or.inr h8
      · rw [h7]
        exact Or.inr (k.unbound hi ⟨fun e => hr (Or.inl e), fun e => hr (Or.inr e)⟩)
    · intro n hn
      rcases h8 with h8 | ⟨h8, _⟩
      · exact Or.inl h8
      · rw [h8] at hn; rcases hn with hn | hn <;> cases hn
    · rcases h8 with h8 | ⟨h8, _⟩
      · exact Or.inl h8
      · exact Or.inr (Or.inr (by rw [h8]; exact ⟨rfl, by simp⟩))
  · exact k

/-- What examining an entry's counts leaves. -/
theorem retireIfIdle_spec (im : Image) : (retireIfIdle im).name = im.name ∧ (retireIfIdle im).generation = im.generation
    ∧ (retireIfIdle im).first = im.first ∧ (retireIfIdle im).count = im.count ∧ (retireIfIdle im).kind = im.kind
    ∧ (retireIfIdle im).published = im.published ∧ (retireIfIdle im).bindings = im.bindings
    ∧ (retireIfIdle im).reads = im.reads
    ∧ ((retireIfIdle im).state = im.state ∨ (im.state = .retiring ∧ im.bindings = 0 ∧ (retireIfIdle im).state = .retired))
    ∧ ((retireIfIdle im).state = .retiring → im.bindings ≠ 0 ∨ im.reads ≠ 0) := by
  unfold retireIfIdle
  split
  · rename_i hc
    exact ⟨rfl, rfl, rfl, rfl, rfl, rfl, rfl, rfl, Or.inr ⟨hc.1, hc.2.1, rfl⟩, fun e => by cases e⟩
  · rename_i hc
    refine ⟨rfl, rfl, rfl, rfl, rfl, rfl, rfl, rfl, Or.inl rfl, fun e => ?_⟩
    by_cases h1 : im.bindings = 0
    · exact Or.inr fun h2 => hc ⟨e, h1, h2⟩
    · exact Or.inl h1

theorem lowerReads (k : Kept h held s) {i : Nat} : Kept h held (lowerReads i s) := by
  refine k.updImage fun im => ?_
  obtain ⟨h1, h2, h3, h4, h5, h6, h7, h8, h9, h10⟩ := retireIfIdle_spec { im with reads := im.reads - 1 }
  refine ⟨h1, h2, h3, h4, h5, h6, h7, h9, fun _ e => ?_⟩
  rw [h7, h8]
  exact h10 e

theorem raiseReads (k : Kept h held s) {i : Nat} : Kept h held (raiseReads i s) :=
  k.updImage fun _ => ⟨rfl, rfl, rfl, rfl, rfl, rfl, rfl, Or.inl rfl, fun _ _ => Or.inr (by simp)⟩

theorem setAccessed (k : Kept h held s) {i : Nat} {v : Bool} :
    Kept h held (s.updImage i fun im => { im with accessed := v }) :=
  k.updImage fun _ => ⟨rfl, rfl, rfl, rfl, rfl, rfl, rfl, Or.inl rfl, fun h e => h e⟩

/-! ### Aperture records -/

/-- A record that is EMPTY or REVOKED is no matter. -/
theorem drop {e : Nat × Option Aperture} (k : Kept h (e :: held) s) (he : ∀ i, boundTo i e.2 = false) : Kept h held s :=
  { k with
    counted := fun i im hi => by
      have := k.counted i im hi
      rw [boundIn_cons, he i] at this
      simpa using this
    inHand := fun a r hm hr => k.inHand a r (List.mem_cons_of_mem _ hm) hr }

/-- A record that is EMPTY is no matter. -/
theorem addNone (k : Kept h held s) (a : Nat) : Kept h ((a, none) :: held) s :=
  { k with
    counted := fun i im hi => by
      have := k.counted i im hi
      rw [boundIn_cons]
      simpa [boundTo] using this
    inHand := fun b r hm hr => by
      rcases List.mem_cons.mp hm with he | hm
      · cases he
      · exact k.inHand b r hm hr }

/-- The count of a BOUND record in hand is taken off. -/
theorem releaseAperture {e : Nat × Option Aperture} (k : Kept h (e :: held) s) : Kept h held (releaseAperture s e) := by
  obtain ⟨a, o⟩ := e
  cases o with
  | none => exact k.drop fun _ => rfl
  | some r =>
    show Kept h held (releaseRecord r s)
    unfold releaseRecord
    by_cases hr : r.revoked = true
    · rw [if_pos hr]
      exact k.drop fun i => by simp [boundTo, hr]
    · rw [if_neg hr]
      have hrev : r.revoked = false := by simpa using hr
      obtain ⟨im, hi, hst, -⟩ := k.inHand a r List.mem_cons_self hrev
      have hc := k.counted _ _ hi
      have hb : boundTo r.entry (some r) = true := by simp [boundTo, hrev]
      rw [boundIn_cons] at hc
      simp only [hb, if_true] at hc
      unfold lowerBindings State.updImage
      rw [hi]
      dsimp only
      obtain ⟨h1, h2, h3, h4, h5, h6, h7, h8, h9, h10⟩ := retireIfIdle_spec { im with bindings := im.bindings - 1 }
      dsimp only at h1 h2 h3 h4 h5 h6 h7 h8 h9 h10
      refine k.setImage hi ⟨h1, h2, h3, h4, h5⟩ ?_ ?_ ?_ (fun b q hm => k.inHand b q (List.mem_cons_of_mem _ hm)) ?_ ?_ ?_
      · rw [h7, h8]; exact h10
      · rw [h7, boundIn_cons]
        simp only [hb, if_true]
        omega
      · intro j hj
        rw [boundIn_cons]
        have : boundTo j (some r) = false := by
          simp only [boundTo, Bool.and_eq_false_iff, beq_eq_false_iff_ne]
          exact Or.inr fun e => hj e.symm
        simp [this]
      · rcases h9 with h9 | ⟨_, h9, _⟩
        · rw [h9]; exact Or.inl ⟨hst, h6⟩
        · rw [h7]; exact Or.inr h9
      · intro n hn
        rcases hst with hst | hst <;> rw [hst] at hn <;> rcases hn with hn | hn <;> cases hn
      · rcases h9 with h9 | ⟨h9, _⟩
        · exact Or.inl h9
        · exact Or.inr (Or.inr (by rw [h9]; exact ⟨rfl, by simp⟩))

/-- The tables of the client ports change: every BOUND record is still in a table or in hand, and agrees with its entry. -/
theorem retable (k : Kept h held s) {cl : Quad ClientUnit} (hw : ∀ c, Table.wf none (cl.get c).apertures = true)
    (hs : ∀ c, (cl.get c).port.state = (s.client c).port.state)
    (hc : ∀ i, totalBound i { s with clients := cl } + boundIn i held' = totalBound i s + boundIn i held)
    (hb : ∀ c ap r, Table.get none (cl.get c).apertures ap = some r → r.revoked = false → r.Agrees s)
    (hh : ∀ a r, (a, some r) ∈ held' → r.revoked = false → r.Agrees s) : Kept h held' { s with clients := cl } := by
  refine { dirWf := k.dirWf, sectorsWf := k.sectorsWf, tablesWf := hw, names := k.names, retiring := k.retiring,
           counted := ?_, bound := hb, inHand := hh, owners := k.owners, jobs := ?_, service := k.service,
           sequences := ?_, closed := ?_, unread := k.unread, scanned := k.scanned }
  · intro i im hi
    have := k.counted i im hi
    have := hc i
    omega
  · intro n j hn
    exact (held_iff rfl n j.work).mpr (k.jobs n j hn)
  · intro b q hb
    exact (admitted rfl (fun _ => rfl) _).mpr (k.sequences b q hb)
  · intro hf
    refine ⟨fun p => ?_, (k.closed hf).2⟩
    cases p with
    | mgmt => exact (k.closed hf).1 .mgmt
    | client c =>
      show (cl.get c).port.state ≠ .ready
      rw [hs]
      exact (k.closed hf).1 (.client c)

/-- The tables' counts when one table changes. -/
theorem total_setClient (i : Nat) (c : ClientId) (u : ClientUnit) :
    totalBound i (s.setClient c u) + boundIn i (s.client c).apertures = totalBound i s + boundIn i u.apertures := by
  simp only [totalBound_eq, client_setClient]
  cases c <;> simp <;> omega

/-- A record of a table is exchanged for one in hand. -/
theorem setAperture {c : ClientId} {ap : Nat} {v : Option Aperture} (k : Kept h ((ap, v) :: held) s) :
    Kept h ((ap, s.aperture c ap) :: held) (setAperture c ap v s) := by
  have hg : ∀ d a, Table.get none ((Machine.setAperture c ap v s).client d).apertures a
      = if d = c ∧ a = ap then v else s.aperture d a := by
    intro d a
    unfold Machine.setAperture
    rw [client_setClient]
    by_cases hd : d = c
    · subst hd
      simp only [true_and, if_true]
      exact Table.get_put (k.tablesWf _) _ _ _
    · simp only [hd, false_and, if_false]; rfl
  refine k.retable (cl := (Machine.setAperture c ap v s).clients) ?_ ?_ ?_ ?_ ?_
  · intro d
    show Table.wf none ((Machine.setAperture c ap v s).client d).apertures = true
    unfold Machine.setAperture
    rw [client_setClient]
    split
    · exact Table.wf_put (k.tablesWf c)
    · exact k.tablesWf d
  · intro d
    show ((Machine.setAperture c ap v s).client d).port.state = _
    unfold Machine.setAperture
    rw [client_setClient]
    split
    · rename_i hd; rw [hd]
    · rfl
  · intro i
    have h1 := total_setClient (s := s) i c { s.client c with apertures := Table.put none (s.client c).apertures ap v }
    have h2 := boundIn_put i ap v (k.tablesWf c)
    rw [boundIn_cons, boundIn_cons]
    show totalBound i (s.setClient c { s.client c with apertures := Table.put none (s.client c).apertures ap v }) + _ = _
    dsimp only at h1 ⊢
    unfold State.aperture
    omega
  · intro d a r hr hrev
    have hr' : Table.get none ((Machine.setAperture c ap v s).client d).apertures a = some r := hr
    rw [hg] at hr'
    split at hr'
    · exact k.inHand ap r (by rw [hr']; exact List.mem_cons_self) hrev
    · exact k.bound d a r hr' hrev
  · intro a r hm hrev
    rcases List.mem_cons.mp hm with he | hm
    · obtain ⟨h1, h2⟩ := Prod.mk.inj he
      exact k.bound c ap r h2.symm hrev
    · exact k.inHand a r (List.mem_cons_of_mem _ hm) hrev

/-- An aperture that is EMPTY becomes BOUND to a READY entry. -/
theorem bindAperture (k : Kept h [] s) {c : ClientId} {ap : Nat} {e : Nat × Image} {boot : Bool}
    (hap : s.aperture c ap = none) (hi : s.image e.1 = some e.2) (hs : e.2.state = .ready)
    (hn : ∃ name, e.2.name = some name) : Kept h [] (bindAperture c ap e boot s) := by
  obtain ⟨i, im⟩ := e
  obtain ⟨name, hn⟩ := hn
  dsimp only at hi hs hn
  have hcomm : Machine.bindAperture c ap (i, im) boot s
      = Machine.setAperture c ap (some (boundRecord (i, im) boot)) (raiseBindings i s) := by
    unfold Machine.bindAperture raiseBindings State.updImage
    have hi' : (Machine.setAperture c ap (some (boundRecord (i, im) boot)) s).image i = some im := hi
    rw [hi, hi']
    rfl
  have hag : (boundRecord (i, im) boot).Agrees s := by
    refine ⟨im, hi, Or.inl hs, by simp [boundRecord, hn], rfl, rfl, rfl, rfl, ?_⟩
    cases hp : im.published <;> simp [boundRecord, hp]
  have hb : ∀ j, boundTo j (some (boundRecord (i, im) boot)) = (i == j) := fun j => by simp [boundTo, boundRecord]
  have k1 : Kept h [(ap, some (boundRecord (i, im) boot))] (Machine.raiseBindings i s) := by
    unfold Machine.raiseBindings State.updImage
    rw [hi]
    dsimp only
    refine k.setImage hi ⟨rfl, rfl, rfl, rfl, rfl⟩ (fun _ => Or.inl (Nat.succ_ne_zero _)) ?_ ?_ ?_
      (Or.inl ⟨Or.inl hs, rfl⟩) (fun _ _ => Or.inl rfl) (Or.inl rfl)
    · rw [boundIn_cons]
      dsimp only
      rw [hb]
      simp [boundIn]
    · intro j hj
      rw [boundIn_cons]
      dsimp only
      rw [hb]
      have : (i == j) = false := by simp; exact fun e => hj e.symm
      rw [this]
      simp
    · intro a r hm _
      rcases List.mem_singleton.mp hm with ⟨⟩
      exact hag
  rw [hcomm]
  have hap' : (Machine.raiseBindings i s).aperture c ap = none := by
    unfold State.aperture State.client Machine.raiseBindings
    rw [updImage_clients]
    exact hap
  have k2 := k1.setAperture (c := c)
  rw [hap'] at k2
  exact k2.drop fun _ => rfl

/-- An aperture is emptied and its count given up. -/
theorem unbindAperture (k : Kept h [] s) {c : ClientId} {ap : Nat} {r : Aperture} (hap : s.aperture c ap = some r) :
    Kept h [] (releaseRecord r (Machine.setAperture c ap none s)) := by
  have k1 := (k.addNone ap).setAperture (c := c)
  rw [hap] at k1
  exact k1.releaseAperture

/-- The records of a list are counted off. -/
theorem releaseAll (l : List (Nat × Option Aperture)) (k : Kept h (l ++ held) s) :
    Kept h held (l.foldl Machine.releaseAperture s) := by
  induction l generalizing s with
  | nil => exact k
  | cons e l ih => exact ih (Kept.releaseAperture k)

theorem emptyTable (k : Kept h [] s) {c : ClientId} : Kept h [] (emptyTable c s) := by
  unfold Machine.emptyTable
  refine Kept.releaseAll _ ?_
  rw [List.append_nil]
  refine k.retable (cl := (s.setClient c { s.client c with apertures := [] }).clients) ?_ ?_ ?_ ?_ ?_
  · intro d
    show Table.wf none ((s.setClient c { s.client c with apertures := [] }).client d).apertures = true
    rw [client_setClient]
    split
    · rfl
    · exact k.tablesWf d
  · intro d
    show ((s.setClient c { s.client c with apertures := [] }).client d).port.state = _
    rw [client_setClient]
    split
    · rename_i hd; rw [hd]
    · rfl
  · intro i
    have h1 := total_setClient (s := s) i c { s.client c with apertures := [] }
    show totalBound i (s.setClient c { s.client c with apertures := [] }) + _ = _
    dsimp only [boundIn] at h1 ⊢
    simp only [List.filter_nil, List.length_nil] at h1 ⊢
    omega
  · intro d a r hr hrev
    have hr' : Table.get none ((s.setClient c { s.client c with apertures := [] }).client d).apertures a = some r := hr
    rw [client_setClient] at hr'
    split at hr'
    · cases hr'
    · exact k.bound d a r hr' hrev
  · intro a r hm hrev
    exact k.bound c a r (Table.get_of_mem (k.tablesWf c) hm).1 hrev


/-! ### The sector map and the job list -/

/-- The sector map changes but for its owners. -/
theorem sectors (k : Kept h held s) {m : List (Nat × SectorRecord)} (hw : Table.wf {} m = true)
    (ho : ∀ n, (Table.get {} m n).owner = (s.sector n).owner) : Kept h held { s with sectors := m } :=
  k.congr rfl hw ho (fun _ => rfl) k.jobs rfl (fun _ _ hb => hb) (fun p hr => Or.inl (by cases p <;> exact hr)) rfl

theorem updSector (k : Kept h held s) {n : Nat} {f : SectorRecord → SectorRecord} (hf : ∀ r, (f r).owner = r.owner) :
    Kept h held (s.updSector n f) := by
  refine k.sectors (Table.wf_put k.sectorsWf) fun m => ?_
  rw [Table.get_put k.sectorsWf]
  split
  · rename_i hm; rw [hf, hm]
  · rfl

theorem updExtent (k : Kept h held s) {a n : Nat} {f : SectorRecord → SectorRecord} (hf : ∀ r, (f r).owner = r.owner) :
    Kept h held (s.updExtent a n f) := by
  refine k.sectors (Table.wf_update f n k.sectorsWf) fun m => ?_
  rw [Table.get_update f n k.sectorsWf]
  split
  · rw [hf]; rfl
  · rfl

theorem clearTargets (k : Kept h held s) {n : Nat} : Kept h held (clearTargets n s) := by
  refine k.sectors (Table.wf_map _ k.sectorsWf) fun m => ?_
  rw [Table.get_map _ rfl k.sectorsWf]
  split <;> rfl

/-- The job list changes: every job agrees with the entry it works on. -/
theorem employs (k : Kept h held s) {l : List Job} {o : List (Nat × Option LastOutcome)}
    (hj : ∀ n j, l.find? (·.number == n) = some j → j.work.Held s n) : Kept h held { s with jobs := l, lastOutcomes := o } :=
  k.congr rfl k.sectorsWf (fun _ => rfl) (fun _ => rfl) hj rfl (fun _ _ hb => hb)
    (fun p hr => Or.inl (by cases p <;> exact hr)) rfl

/-- The job of a number after jobs of a number are changed. -/
theorem find_map {l : List Job} {n m : Nat} {f : Job → Job} {j : Job} (hf : ∀ x, (f x).number = x.number)
    (h : (l.map fun x => if x.number = n then f x else x).find? (·.number == m) = some j) :
    (m ≠ n ∧ l.find? (·.number == m) = some j) ∨ (m = n ∧ ∃ x, l.find? (·.number == n) = some x ∧ j = f x) := by
  induction l with
  | nil => exact absurd h (by simp)
  | cons e l ih =>
    rw [List.map_cons, List.find?_cons] at h
    rw [List.find?_cons, List.find?_cons]
    by_cases he : e.number = n
    · rw [if_pos he] at h
      by_cases hm : m = n
      · subst hm
        have h1 : ((f e).number == m) = true := by rw [hf]; simpa using he
        have h2 : (e.number == m) = true := by simpa using he
        rw [h1] at h
        rw [h2]
        exact Or.inr ⟨rfl, e, rfl, (Option.some.inj h).symm⟩
      · have h1 : ((f e).number == m) = false := by rw [hf, he]; simpa using fun e => hm e.symm
        have h2 : (e.number == m) = false := by rw [he]; simpa using fun e => hm e.symm
        rw [h1] at h
        rw [h2]
        rcases ih h with h3 | h3
        · exact Or.inl h3
        · exact absurd h3.1 hm
    · rw [if_neg he] at h
      have h2 : (e.number == n) = false := by simpa using he
      rw [h2]
      by_cases hm : (e.number == m) = true
      · rw [hm] at h ⊢
        refine Or.inl ⟨fun e1 => ?_, h⟩
        rw [e1, h2] at hm; cases hm
      · have hm' : (e.number == m) = false := by simpa using hm
        rw [hm'] at h ⊢
        exact ih h

theorem updJob (k : Kept h held s) {n : Nat} {f : Job → Job} (hf : ∀ j, (f j).number = j.number)
    (hw : ∀ j, s.job n = some j → (f j).work.Held s n) : Kept h held (s.updJob n f) := by
  refine k.employs (o := s.lastOutcomes) fun m j hm => ?_
  rcases find_map hf hm with ⟨_, h1⟩ | ⟨h1, x, h2, h3⟩
  · exact k.jobs m j h1
  · rw [h1, h3]; exact hw x h2

theorem activateJob (k : Kept h held s) {n : Nat} : Kept h held (activateJob n s) :=
  k.updJob (fun _ => rfl) fun j hj => k.jobs n j hj

theorem activate (k : Kept h held s) {n : Option Nat} : Kept h held (activate n s) := by
  cases n
  · exact k
  · exact k.activateJob

/-- The job of a number after that of a number has left. -/
theorem find_filter {l : List Job} {n m : Nat} :
    (l.filter (·.number != n)).find? (·.number == m) = if m = n then none else l.find? (·.number == m) := by
  induction l with
  | nil => simp
  | cons e l ih =>
    rw [List.filter_cons]
    by_cases he : e.number = n
    · have h1 : (e.number != n) = false := by simp [he]
      rw [h1]
      simp only [Bool.false_eq_true, if_false]
      rw [ih]
      split
      · rfl
      · rename_i hm
        have h2 : (e.number == m) = false := by rw [he]; simpa using fun e => hm e.symm
        rw [List.find?_cons, h2]
    · have h1 : (e.number != n) = true := by simp [he]
      rw [h1, if_pos rfl, List.find?_cons, List.find?_cons, ih]
      by_cases hm : (e.number == m) = true
      · rw [hm]
        have : ¬ m = n := by
          rintro rfl
          exact he (by simpa using hm)
        simp only [if_neg this]
      · have hm' : (e.number == m) = false := by simpa using hm
        rw [hm']

theorem endJob (k : Kept h held s) {n : Nat} {o : JobOutcome} {p : Option Nat} : Kept h held (endJob n o p s) := by
  unfold Machine.endJob
  split
  · refine (k.employs fun m j hm => ?_).clearTargets
    rw [find_filter] at hm
    split at hm
    · cases hm
    · exact k.jobs m j hm
  · exact k

/-- After a job has ended its slot is free. -/
theorem job_endJob (n : Nat) (o : JobOutcome) (p : Option Nat) : (Machine.endJob n o p s).job n = none := by
  unfold Machine.endJob
  split
  · show (s.jobs.filter (·.number != n)).find? (·.number == n) = none
    rw [find_filter, if_pos rfl]
  · assumption

/-- Ending a job leaves the directory alone. -/
theorem endJob_setImage (n : Nat) (o : JobOutcome) (p : Option Nat) (i : Nat) (im : Option Image) :
    Machine.endJob n o p (s.setImage i im) = (Machine.endJob n o p s).setImage i im := by
  unfold Machine.endJob
  have : (s.setImage i im).job n = s.job n := rfl
  rw [this]
  split <;> rfl

theorem endJob_updExtent_dir (n : Nat) (o : JobOutcome) (p : Option Nat) : (Machine.endJob n o p s).dir = s.dir := by
  unfold Machine.endJob
  split <;> rfl

theorem mgmtWork_endJob (n : Nat) (o : JobOutcome) (p : Option Nat) : mgmtWork (Machine.endJob n o p s) = mgmtWork s := by
  unfold Machine.endJob
  split <;> rfl

/-- A media access that is no program sequence of a request joins its bank. -/
theorem joinMedia (k : Kept h held s) {n : Nat} {m : MediaAccess} (hm : ∀ q, m = .program q → q.issuer.isRequest = false) :
    Kept h held (joinMedia n m s) := by
  refine k.join ?_ ?_
  · cases m with
    | program q => simp [Access.mgmtWork, hm q rfl]
    | verifyRead _ _ _ => exact Nat.le_refl _
    | eraseStart _ _ => exact Nat.le_refl _
  · intro q c e
    cases e
    exact .of_job (hm q rfl)

theorem issue (k : Kept h held s) {n sector line : Nat} {m : MediaAccess}
    (hm : ∀ q, m = .program q → q.issuer.isRequest = false) : Kept h held (issue n sector line m s) :=
  (k.updJob (n := n) (f := fun j => { j with sector, line, active := false }) (fun _ => rfl)
    fun j hj => k.jobs n j hj).joinMedia hm

theorem admitJob (k : Kept h held s) {n sector line : Nat} {w : JobWork} {m : MediaAccess} (hw : w.Held s n)
    (hm : ∀ q, m = .program q → q.issuer.isRequest = false) : Kept h held (admitJob n w sector line m s) := by
  refine Kept.joinMedia (k.employs fun a j ha => ?_) hm
  rw [List.find?_append] at ha
  cases hf : s.jobs.find? (·.number == a) with
  | some x =>
    rw [hf] at ha
    simp only [Option.some_or, Option.some.injEq] at ha
    subst ha
    exact k.jobs a x hf
  | none =>
    rw [hf] at ha
    simp only [Option.none_or, List.find?_cons, List.find?_nil] at ha
    split at ha
    · rename_i hn
      have hn' : n = a := by simpa using hn
      rw [← Option.some.inj ha, ← hn']
      exact hw
    · cases ha

/-! ### Entries come and go -/

/-- An entry is created in a FREE place, with its extent unowned. -/
theorem create (k : Kept h held s) {i : Nat} {im : Image} (hi : s.image i = none) (h0 : mgmtWork s = 0)
    (hst : im.state ≠ .retiring) (hb : im.bindings = 0)
    (hn : ∀ name, im.name = some name → ∀ j jm, s.image j = some jm → jm.name = some name →
      jm.generation ≠ im.generation)
    (hu : ∀ n, im.first ≤ n → n < im.first + im.count → (s.sector n).owner = none) {p m : Nat}
    (hr : s.scanStage ≠ .readingSettings)
    (hs : s.scanStage = .scanning → i < m ∧ s.nextIndex ≤ m ∧ im.first + im.count ≤ p ∧ s.scanPosition ≤ p) :
    Kept h held { createEntry i im s with nextIndex := m, scanPosition := p } := by
  have hget := fun j => image_setImage k.dirWf i j (some im)
  have hdir : ∀ j, ({ createEntry i im s with nextIndex := m, scanPosition := p } : State).image j
      = if j = i then some im else s.image j := hget
  have hsec : ∀ n, (({ createEntry i im s with nextIndex := m, scanPosition := p } : State).sector n).owner
      = if im.first ≤ n ∧ n < im.first + im.count then some i else (s.sector n).owner := by
    intro n
    show (Table.get {} (Table.update {} _ s.sectors im.first im.count) n).owner = _
    rw [Table.get_update _ _ k.sectorsWf]
    split <;> rfl
  have hag : ∀ r : Aperture, r.Agrees s →
      r.Agrees { createEntry i im s with nextIndex := m, scanPosition := p } := by
    rintro r ⟨jm, h1, h2⟩
    refine ⟨jm, ?_, h2⟩
    rw [hdir, if_neg]
    · exact h1
    · intro e; rw [e, hi] at h1; cases h1
  refine { dirWf := Table.wf_put k.dirWf, sectorsWf := Table.wf_update _ _ k.sectorsWf, tablesWf := k.tablesWf, names := ?_,
           retiring := ?_, counted := ?_, bound := ?_, inHand := ?_, owners := ?_, jobs := ?_, service := k.service,
           sequences := ?_, closed := k.closed, unread := ?_, scanned := ?_ }
  · intro a b am bm name ha hb' hna hnb hg
    rw [hdir] at ha hb'
    split at ha
    · rename_i h1
      cases ha
      split at hb'
      · rename_i h2; rw [h1, h2]
      · exact absurd hg.symm (hn name hna b bm hb' hnb)
    · split at hb'
      · cases hb'
        exact absurd hg (hn name hnb a am ha hna)
      · exact k.names a b am bm name ha hb' hna hnb hg
  · intro j jm hj
    rw [hdir] at hj
    split at hj
    · cases hj; exact fun e => absurd e hst
    · exact k.retiring j jm hj
  · intro j jm hj
    show jm.bindings = totalBound j s + boundIn j held
    rw [hdir] at hj
    split at hj
    · rename_i h1
      cases hj
      obtain ⟨h2, h3⟩ := k.total_of_free hi
      rw [h1, h2, h3, hb]
    · exact k.counted j jm hj
  · intro c ap r h1 h2
    exact hag r (k.bound c ap r h1 h2)
  · intro a r h1 h2
    exact hag r (k.inHand a r h1 h2)
  · intro n j
    rw [hsec, hdir]
    by_cases hin : im.first ≤ n ∧ n < im.first + im.count
    · rw [if_pos hin]
      have hno : ∀ jm, s.image j = some jm → ¬ (jm.first ≤ n ∧ n < jm.first + jm.count) := by
        intro jm h1 h2
        have := (k.owners n j).mpr ⟨jm, h1, h2⟩
        rw [hu n hin.1 hin.2] at this
        cases this
      constructor
      · intro e
        cases e
        exact ⟨im, by rw [if_pos rfl], hin⟩
      · rintro ⟨jm, h1, h2⟩
        split at h1
        · rename_i h3; rw [h3]
        · exact absurd h2 (hno jm h1)
    · rw [if_neg hin, k.owners n j]
      constructor
      · rintro ⟨jm, h1, h2⟩
        refine ⟨jm, ?_, h2⟩
        rw [if_neg]
        · exact h1
        · intro e; rw [e, hi] at h1; cases h1
      · rintro ⟨jm, h1, h2⟩
        split at h1
        · cases h1; exact absurd h2 hin
        · exact ⟨jm, h1, h2⟩
  · intro n j hn'
    have := k.jobs n j hn'
    cases hw : j.work with
    | verify a _ _ _ =>
      rw [hw] at this
      obtain ⟨jm, h1, h2⟩ := this
      refine ⟨jm, ?_, h2⟩
      rw [hdir, if_neg]
      · exact h1
      · intro e; rw [e, hi] at h1; cases h1
    | discard a _ =>
      rw [hw] at this
      obtain ⟨jm, h1, h2⟩ := this
      refine ⟨jm, ?_, h2⟩
      rw [hdir, if_neg]
      · exact h1
      · intro e; rw [e, hi] at h1; cases h1
    | erase _ => trivial
  · intro b q hq
    exact .of_job (isRequest_of_work h0 hq)
  · intro e
    exact absurd e hr
  · intro e
    obtain ⟨h1, h2, h3, h4⟩ := hs e
    obtain ⟨h5, h6⟩ := k.scanned e
    refine ⟨fun j hj => ?_, fun j jm hj => ?_⟩
    · have hj' : m ≤ j := hj
      rw [hdir, if_neg (by omega)]
      exact h5 j (by omega)
    · show _ ≤ p
      rw [hdir] at hj
      split at hj
      · cases hj; exact h3
      · have := h6 j jm hj; omega

/-- An entry that is neither bound nor worked on becomes FREE, with its extent unowned. -/
theorem free (k : Kept h held s) {i n : Nat} {im : Image} (hi : s.image i = some im) (hst : im.state = .discarding n)
    (hj : s.job n = none) :
    Kept h held ((s.updExtent im.first im.count fun r => { r with owner := none }).setImage i none) := by
  have hdir : ∀ j, ((s.updExtent im.first im.count fun r => { r with owner := none }).setImage i none).image j
      = if j = i then none else s.image j := fun j => image_setImage k.dirWf i j none
  have hsec : ∀ m, (((s.updExtent im.first im.count fun r => { r with owner := none }).setImage i none).sector m).owner
      = if im.first ≤ m ∧ m < im.first + im.count then none else (s.sector m).owner := by
    intro m
    show (Table.get {} (Table.update {} _ s.sectors im.first im.count) m).owner = _
    rw [Table.get_update _ _ k.sectorsWf]
    split <;> rfl
  have hback : ∀ j jm, ((s.updExtent im.first im.count fun r => { r with owner := none }).setImage i none).image j = some jm →
      j ≠ i ∧ s.image j = some jm := by
    intro j jm h1
    rw [hdir] at h1
    split at h1
    · cases h1
    · exact ⟨‹_›, h1⟩
  have hfwd : ∀ j jm, s.image j = some jm → (∀ n, im.state = .discarding n → jm.state ≠ .discarding n) →
      ((s.updExtent im.first im.count fun r => { r with owner := none }).setImage i none).image j = some jm := by
    intro j jm h1 h2
    rw [hdir, if_neg]
    · exact h1
    · intro e
      rw [e, hi] at h1
      cases h1
      exact h2 n hst hst
  have hag : ∀ r : Aperture, r.Agrees s →
      r.Agrees ((s.updExtent im.first im.count fun r => { r with owner := none }).setImage i none) := by
    rintro r ⟨jm, h1, h2, h3⟩
    refine ⟨jm, hfwd _ jm h1 fun m _ e => ?_, h2, h3⟩
    rcases h2 with h2 | h2 <;> rw [h2] at e <;> cases e
  refine { dirWf := Table.wf_put k.dirWf, sectorsWf := Table.wf_update _ _ k.sectorsWf, tablesWf := k.tablesWf, names := ?_,
           retiring := ?_, counted := ?_, bound := ?_, inHand := ?_, owners := ?_, jobs := ?_, service := k.service,
           sequences := ?_, closed := k.closed, unread := ?_, scanned := ?_ }
  · intro a b am bm name ha hb'
    exact k.names a b am bm name (hback a am ha).2 (hback b bm hb').2
  · intro j jm h1
    exact k.retiring j jm (hback j jm h1).2
  · intro j jm h1
    exact k.counted j jm (hback j jm h1).2
  · intro c ap r h1 h2
    exact hag r (k.bound c ap r h1 h2)
  · intro a r h1 h2
    exact hag r (k.inHand a r h1 h2)
  · intro m j
    rw [hsec]
    by_cases hin : im.first ≤ m ∧ m < im.first + im.count
    · rw [if_pos hin]
      constructor
      · intro e; cases e
      · rintro ⟨jm, h1, h2⟩
        obtain ⟨h3, h4⟩ := hback j jm h1
        have e1 := (k.owners m j).mpr ⟨jm, h4, h2⟩
        have e2 := (k.owners m i).mpr ⟨im, hi, hin⟩
        rw [e1] at e2
        exact absurd (Option.some.inj e2) h3
    · rw [if_neg hin, k.owners m j]
      constructor
      · rintro ⟨jm, h1, h2⟩
        refine ⟨jm, ?_, h2⟩
        rw [hdir, if_neg]
        · exact h1
        · intro e; rw [e, hi] at h1; cases h1; exact hin h2
      · rintro ⟨jm, h1, h2⟩
        exact ⟨jm, (hback j jm h1).2, h2⟩
  · intro m j hm
    have hm' : s.job m = some j := hm
    have := k.jobs m j hm'
    have hne : m ≠ n := by intro e; rw [e, hj] at hm'; cases hm'
    cases hw : j.work with
    | verify a _ _ _ =>
      rw [hw] at this
      obtain ⟨jm, h1, h2⟩ := this
      exact ⟨jm, hfwd a jm h1 fun m' _ e => (by rw [h2] at e; cases e), h2⟩
    | discard a _ =>
      rw [hw] at this
      obtain ⟨jm, h1, h2⟩ := this
      refine ⟨jm, hfwd a jm h1 fun m' e1 e => ?_, h2⟩
      rw [h2] at e
      cases e
      rw [hst] at e1
      cases e1
      exact hne rfl
    | erase _ => trivial
  · intro b q hq
    have hold := k.sequences b q hq
    cases hx : q.issuer with
    | openHeader a am =>
      rw [hx] at hold
      obtain ⟨h2, h3, h4, ⟨nm, h5, h6⟩, h7⟩ := hold
      refine ⟨?_, h3, h4, ⟨nm, h5, fun j jm h8 => h6 j jm (hback j jm h8).2⟩, fun m h8 h9 => ?_⟩
      · rw [hdir]; split
        · rfl
        · exact h2
      · rw [hsec]; split
        · rfl
        · exact h7 m h8 h9
    | write => trivial
    | publishedMark _ => trivial
    | publishFields a _ _ =>
      rw [hx] at hold
      obtain ⟨jm, h1, h2⟩ := hold
      exact ⟨jm, hfwd a jm h1 fun m' _ e => (by rw [h2] at e; cases e), h2⟩
    | retiredMark a =>
      rw [hx] at hold
      obtain ⟨jm, h1, h2⟩ := hold
      exact ⟨jm, hfwd a jm h1 fun m' _ e => (by rw [h2] at e; cases e), h2⟩
    | discardMark a =>
      rw [hx] at hold
      obtain ⟨jm, h1, h2⟩ := hold
      exact ⟨jm, hfwd a jm h1 fun m' _ e => (by rw [e] at h2; cases h2), h2⟩
  · intro e j
    rw [hdir]
    split
    · rfl
    · exact k.unread e j
  · intro e
    obtain ⟨h1, h2⟩ := k.scanned e
    refine ⟨fun j h3 => ?_, fun j jm h3 => h2 j jm (hback j jm h3).2⟩
    rw [hdir]
    split
    · rfl
    · exact h1 j h3


/-! ### The job unit -/

/-- A job's entry takes another state as the job ends: the entry was the job's. -/
theorem endsEntry (k : Kept h held s) {n i : Nat} {o : JobOutcome} {p : Option Nat} {im : Image} {st : ImageState}
    (hi : s.image i = some im) (hs : im.state = .verifying n ∨ im.state = .discarding n) (hst : st ≠ .retiring) :
    Kept h held (Machine.endJob n o p (s.setImage i (some { im with state := st }))) := by
  rw [endJob_setImage]
  have hi' : (Machine.endJob n o p s).image i = some im := by
    rw [image_eq (endJob_updExtent_dir n o p)]; exact hi
  have hne : im.state ≠ .ready ∧ im.state ≠ .retiring := by
    rcases hs with hs | hs <;> rw [hs] <;> exact ⟨by simp, by simp⟩
  have hb := k.unbound hi hne
  refine k.endJob.setImage hi' ⟨rfl, rfl, rfl, rfl, rfl⟩ (fun e => absurd e hst) rfl (fun _ _ => rfl) k.endJob.inHand
    (Or.inr hb) ?_ ?_
  · intro m hm
    refine Or.inr ?_
    have : m = n := by
      rcases hs with hs | hs <;> rw [hs] at hm <;> rcases hm with hm | hm <;> cases hm <;> rfl
    rw [this]
    exact job_endJob n o p
  · refine Or.inr (Or.inr ?_)
    rcases hs with hs | hs <;> rw [hs] <;> exact ⟨rfl, by simp⟩

theorem updImage_some {i : Nat} {im : Image} {f : Image → Image} (hi : s.image i = some im) :
    s.updImage i f = s.setImage i (some (f im)) := by unfold State.updImage; rw [hi]

theorem verifyFails (k : Kept h held s) {n i c : Nat} {r : BadReason} {o : JobOutcome} {j : Job} {m : Bool} {a : Nat}
    {x : Word32} (hj : s.job n = some j) (hw : j.work = .verify i m a x) : Kept h held (verifyFails n i r o c s) := by
  have := k.jobs n j hj
  rw [hw] at this
  obtain ⟨im, hi, hs⟩ := this
  unfold Machine.verifyFails
  rw [updImage_some hi]
  exact (k.endsEntry (st := .bad r) hi (Or.inl hs) (by simp)).raise

theorem discardFails (k : Kept h held s) {n i c : Nat} {r : BadReason} {o : JobOutcome} {j : Job} {m : Nat}
    (hj : s.job n = some j) (hw : j.work = .discard i m) : Kept h held (discardFails n i c r o s) := by
  have := k.jobs n j hj
  rw [hw] at this
  obtain ⟨im, hi, hs⟩ := this
  unfold Machine.discardFails
  rw [updImage_some hi]
  exact (k.endsEntry (st := .bad r) hi (Or.inr hs) (by simp)).raise

theorem announce (k : Kept h held s) {im : Image} : Kept h held (announce im s) := by
  have hat : ∀ {t : State} {name : Word32} {g : Nat} {c : ClientId}, Kept h held t → Kept h held (announceAt name g t c) := by
    intro t name g c kt
    unfold announceAt
    split
    · exact kt.raise
    · exact kt
  unfold Machine.announce
  split
  · exact hat (hat (hat (hat k)))
  · exact k

theorem verifyReadDone (k : Kept h held s) {n : Nat} {line : List Byte} : Kept h held (verifyReadDone n line s) := by
  unfold Machine.verifyReadDone
  split
  · rename_i i checked crc _ _ _ hj
    split
    · rename_i im hi
      split
      · rename_i length expected hp
        have hw : ∀ (m : Bool) (c : Nat) (x : Word32), Kept h held (s.updJob n fun j => { j with work := .verify i m c x }) :=
          fun m c x => k.updJob (f := fun j => { j with work := .verify i m c x }) (fun _ => rfl)
            fun j0 hj0 => (k.jobs n _ hj : JobWork.Held s n (.verify i false checked crc))
        dsimp only
        split
        · exact (hw _ _ _).issue (fun q e => by cases e)
        · split
          · exact (hw _ _ _).issue (fun q e => by cases e; rfl)
          · exact k.verifyFails hj rfl
      · exact k
    · exact k
  · exact k

theorem publishedMarkDone (k : Kept h held s) {n : Nat} {d : Bool} : Kept h held (publishedMarkDone n d s) := by
  unfold Machine.publishedMarkDone
  split
  · rename_i i m checked crc _ _ _ hj
    split
    · split
      · rename_i im hi
        have := k.jobs n _ hj
        obtain ⟨im', h1, h2⟩ := this
        rw [hi] at h1
        cases h1
        exact (k.endsEntry (st := .ready) hi (Or.inl h2) (by simp)).announce.raise
      · exact k
    · exact k.verifyFails hj rfl
  · exact k

/-- A DISCARD that has erased its first sector ends with its entry FREE. -/
theorem frees (k : Kept h held s) {i n : Nat} {im : Image} {j : Job} {o : JobOutcome} {p : Option Nat}
    (hi : s.image i = some im) (hst : im.state = .discarding n) (hj : s.job n = some j) :
    Kept h held (Machine.endJob n o p ((s.updExtent im.first im.count fun r => { r with owner := none }).setImage i none)) := by
  have k1 := (k.endJob (n := n) (o := o) (p := p)).free (n := n) (i := i) (im := im)
    (by rw [image_eq (endJob_updExtent_dir n o p)]; exact hi) hst (job_endJob n o p)
  have hw : Table.wf {} (Table.update {} (fun r : SectorRecord => { r with owner := none }) s.sectors im.first im.count) = true :=
    Table.wf_update _ _ k.sectorsWf
  have he : Machine.endJob n o p ((s.updExtent im.first im.count fun r => { r with owner := none }).setImage i none)
      = { (((Machine.endJob n o p s).updExtent im.first im.count fun r => { r with owner := none }).setImage i none) with
          sectors := Table.map {} (fun r => if r.target = some n then { r with target := none } else r)
            (Table.update {} (fun r : SectorRecord => { r with owner := none }) s.sectors im.first im.count) } := by
    have hj' : ((s.updExtent im.first im.count fun r => { r with owner := none }).setImage i none).job n = some j := hj
    unfold Machine.endJob
    rw [hj, hj']
    rfl
  rw [he]
  refine k1.sectors (Table.wf_map _ hw) fun m => ?_
  have hm : Table.wf {} (Table.map {} (fun r : SectorRecord => if r.target = some n then { r with target := none } else r)
      s.sectors) = true := Table.wf_map _ k.sectorsWf
  have hsec : (Machine.endJob n o p s).sectors
      = Table.map {} (fun r : SectorRecord => if r.target = some n then { r with target := none } else r) s.sectors := by
    unfold Machine.endJob
    rw [hj]
    rfl
  show _ = (Table.get {} (Table.update {} _ (Machine.endJob n o p s).sectors im.first im.count) m).owner
  rw [hsec, Table.get_map _ rfl hw, Table.get_update _ _ k.sectorsWf, Table.get_update _ _ hm,
    Table.get_map _ rfl k.sectorsWf]
  split <;> split <;> rfl

theorem eraseDone (k : Kept h held s) {n sector : Nat} {o : EraseOutcome} : Kept h held (eraseDone n sector o s) := by
  unfold Machine.eraseDone
  split
  · rename_i i remaining _ _ _ hj
    split
    · split
      · rename_i im hi
        obtain ⟨im', h1, h2⟩ := k.jobs n _ hj
        rw [hi] at h1
        cases h1
        split
        · unfold discardDone
          refine Kept.raise ?_
          exact k.frees hi h2 hj
        · unfold discardNext
          refine Kept.issue ?_ (fun q e => by cases e)
          refine Kept.updJob (f := fun j => { j with work := .discard i (remaining - 1) })
            (Kept.updSector k (f := fun r => { r with target := none }) fun _ => rfl) (fun _ => rfl) fun j0 hj0 => ?_
          exact ⟨im, hi, h2⟩
      · exact k
    · exact k.discardFails hj rfl
    · exact k.discardFails hj rfl
  · split
    · exact ((k.updSector (f := fun r => { r with failed := false }) fun _ => rfl).endJob).raise
    · exact k.endJob.raise
    · exact k.endJob.raise
  · exact k

theorem completeRead {a : ReadAccess} (k : Kept (if a.ofMgmt then 1 else 0) held s) : Kept 0 held (completeRead a s) := by
  have hc : Kept (if a.ofMgmt then 1 else 0) held (countCompletion a s) := by
    unfold countCompletion
    cases a.entry with
    | none => exact k
    | some i =>
      refine Kept.lowerReads ?_
      by_cases hf : a.request = .fetch ∧ a.dropped = false
      · rw [if_pos hf]; exact k.setAccessed
      · rw [if_neg hf]; exact k
  unfold Machine.completeRead
  dsimp only
  by_cases hd : a.dropped = true
  · rw [if_pos hd]
    exact hc.setReadMark.mono (Nat.zero_le _)
  · rw [if_neg hd]
    cases hp : a.port with
    | mgmt =>
      have : a.ofMgmt = true := by simp [ReadAccess.ofMgmt, hp]
      rw [this] at hc
      exact hc.setReadMark.respondMgmt
    | client c => exact (hc.setReadMark.respondClient).mono (Nat.zero_le _)


/-! ### Program sequences -/

/-- With work in hand a request is in service, so that the scan has ended. -/
theorem finished (k : Kept 1 held s) : s.scanStage = .finished := by
  by_cases hf : s.scanStage = .finished
  · exact hf
  · have h1 := (k.closed hf).2
    have h2 := k.service
    rw [h1] at h2
    simp at h2

/-- An entry takes another state and fields while a request at the management port works on it. -/
theorem reenter (k : Kept 1 held s) {i : Nat} {im im' : Image} (hi : s.image i = some im)
    (hs : im.state = .opened ∨ im.state = .ready ∨ discardable im.state = true)
    (hid : im'.name = im.name ∧ im'.generation = im.generation ∧ im'.first = im.first ∧ im'.count = im.count
      ∧ im'.kind = im.kind ∧ im'.bindings = im.bindings)
    (hret : im'.state = .retiring → im'.bindings ≠ 0 ∨ im'.reads ≠ 0)
    (hb : ((im'.state = .ready ∨ im'.state = .retiring) ∧ im'.published = im.published) ∨ im'.bindings = 0) :
    Kept 1 held (s.setImage i (some im')) := by
  refine k.setImage hi ⟨hid.1, hid.2.1, hid.2.2.1, hid.2.2.2.1, hid.2.2.2.2.1⟩ hret (by rw [hid.2.2.2.2.2])
    (fun _ _ => rfl) k.inHand hb ?_ (Or.inr (Or.inl k.work_zero))
  intro n hn
  rcases hs with hs | hs | hs
  · rw [hs] at hn; rcases hn with hn | hn <;> cases hn
  · rw [hs] at hn; rcases hn with hn | hn <;> cases hn
  · rcases hn with hn | hn <;> rw [hn] at hs <;> cases hs

theorem publishEnded (k : Kept 1 held s) {i length : Nat} {crc : Word32} {out : ProgramOutcome}
    (hx : (Issuer.publishFields i length crc).Admitted s) : Kept 0 held (publishEnded i length crc out s) := by
  obtain ⟨im, hi, hs⟩ := hx
  unfold Machine.publishEnded
  split
  · split
    · rename_i n im' _ hi'
      rw [hi] at hi'
      cases hi'
      have hb := k.unbound hi (by rw [hs]; exact ⟨by simp, by simp⟩)
      refine Kept.respondMgmt (Kept.admitJob ?_ ?_ (fun q e => by cases e))
      · exact k.reenter hi (Or.inl hs) ⟨rfl, rfl, rfl, rfl, rfl, rfl⟩ (fun e => by cases e) (Or.inr hb)
      · exact ⟨_, by rw [image_setImage k.dirWf, if_pos rfl], rfl⟩
    · exact k.respondMgmt
  · exact k.respondMgmt
  · exact k.respondMgmt

theorem discardEnded (k : Kept 1 held s) {i : Nat} {out : ProgramOutcome} (hx : (Issuer.discardMark i).Admitted s) :
    Kept 0 held (discardEnded i out s) := by
  obtain ⟨im, hi, hs⟩ := hx
  unfold Machine.discardEnded
  split
  · rename_i n im' _ hi'
    rw [hi] at hi'
    cases hi'
    have hne : im.state ≠ .ready ∧ im.state ≠ .retiring := by
      constructor <;> intro e <;> rw [e] at hs <;> cases hs
    have hb := k.unbound hi hne
    refine Kept.respondMgmt (Kept.admitJob (Kept.updExtent (f := fun r => { r with target := some n }) ?_ fun _ => rfl) ?_
      (fun q e => by cases e))
    · exact k.reenter hi (Or.inr (Or.inr hs)) ⟨rfl, rfl, rfl, rfl, rfl, rfl⟩ (fun e => by cases e) (Or.inr hb)
    · exact ⟨_, by
        show (s.setImage i _).image i = _
        rw [image_setImage k.dirWf, if_pos rfl], rfl⟩
  · exact k.respondMgmt

theorem retireEnded (k : Kept 1 held s) {i : Nat} {out : ProgramOutcome} (hx : (Issuer.retiredMark i).Admitted s) :
    Kept 0 held (retireEnded i out s) := by
  obtain ⟨im, hi, hs⟩ := hx
  unfold Machine.retireEnded
  rw [hi]
  refine Kept.respondMgmt ?_
  unfold retiredImage
  split
  · rename_i hc
    exact k.reenter hi (Or.inr (Or.inl hs)) ⟨rfl, rfl, rfl, rfl, rfl, rfl⟩ (fun e => by cases e) (Or.inr hc.1)
  · rename_i hc
    refine k.reenter hi (Or.inr (Or.inl hs)) ⟨rfl, rfl, rfl, rfl, rfl, rfl⟩ (fun _ => ?_) (Or.inl ⟨Or.inr rfl, rfl⟩)
    by_cases h1 : im.bindings = 0
    · exact Or.inr fun h2 => hc ⟨h1, h2⟩
    · exact Or.inl h1

theorem openEnded (k : Kept 1 held s) {i : Nat} {im : Image} {out : ProgramOutcome}
    (hx : (Issuer.openHeader i im).Admitted s) : Kept 0 held (openEnded i im out s) := by
  obtain ⟨h1, h2, h3, ⟨name, h4, h5⟩, h6⟩ := hx
  unfold Machine.openEnded
  split
  · refine Kept.respondMgmt ?_
    refine k.create (p := s.scanPosition) (m := s.nextIndex) h1 k.work_zero (by rw [h2]; simp) h3 ?_ h6
      (by rw [k.finished]; simp) (fun e => by rw [k.finished] at e; cases e)
    intro name' hn j jm hj hjn
    rw [h4] at hn
    cases hn
    exact h5 j jm hj hjn
  · exact k.respondMgmt
  · exact k.respondMgmt

/-- The end of a program sequence for its issuer, the sequence in hand. -/
theorem programEnded {x : Issuer} {out : ProgramOutcome} (k : Kept (if x.isRequest then 1 else 0) held s)
    (hx : x.Admitted s) : Kept 0 held (programEnded x out s) := by
  cases x with
  | openHeader i im => exact Kept.openEnded k hx
  | write => exact Kept.respondMgmt k
  | publishFields i l c => exact Kept.publishEnded k hx
  | retiredMark i => exact Kept.retireEnded k hx
  | discardMark i => exact Kept.discardEnded k hx
  | publishedMark n => exact Kept.publishedMarkDone (h := 0) k

/-! ### Banks and the supply -/

theorem releaseSlot (k : Kept h held s) {c : Claimant} : Kept h held (releaseSlot c s) :=
  k.congr rfl k.sectorsWf (fun _ => rfl) (fun _ => rfl) k.jobs rfl (fun _ _ hb => hb)
    (fun p hr => Or.inl (by cases p <;> exact hr)) rfl

theorem lodge (k : Kept h held s) {c : Claimant} : Kept h held (lodge c s) :=
  k.congr rfl k.sectorsWf (fun _ => rfl) (fun _ => rfl) k.jobs rfl (fun _ _ hb => hb)
    (fun p hr => Or.inl (by cases p <;> exact hr)) rfl

/-- A bank gives up its activity, claim and slot: its work comes into the hand. -/
theorem quitBank (k : Kept h held s) {b : BankId} (hw : h' ≤ (s.bank b).activity.mgmtWork + h) :
    Kept h' held (quitBank b s) := by
  refine Kept.releaseSlot (k.setBank ?_ ?_)
  · rw [mgmtWork_eq, mgmtWork_eq]
    show 0 + workOf (s.bank b).waiting + h' ≤ _
    omega
  · intro q hq
    rcases hq with hq | hq
    · cases hq
    · exact Or.inl (Or.inr hq)

/-- A free bank has no work under way. -/
theorem work_free {k : Bank} (hf : k.isFree = true) : k.activity.mgmtWork = 0 ∧ k.activity.sequence = none := by
  unfold Bank.isFree at hf
  split at hf
  · rename_i e; rw [e]; exact ⟨rfl, rfl⟩
  · rename_i e; rw [e]; exact ⟨rfl, rfl⟩
  · cases hf

theorem hasSequence_sub {k : Bank} {w : List Access} (hw : ∀ a ∈ w, a ∈ k.waiting) {q : ProgramSequence}
    (h : ∃ c, Access.media (.program q) c ∈ w) : k.hasSequence q := by
  obtain ⟨c, hm⟩ := h
  exact Or.inr ⟨c, hw _ hm⟩

/-- Issuers need the same of the directory where it is the same. -/
theorem admitted_congr (hd : t.dir = s.dir) (hs : t.sectors = s.sectors) (x : Issuer) : x.Admitted t ↔ x.Admitted s :=
  admitted hd (fun n => by unfold State.sector; rw [hs]) x

theorem sequence_admitted (k : Kept h held s) {b : BankId} {q : ProgramSequence} (hq : (s.bank b).hasSequence q) :
    q.issuer.Admitted s := k.sequences b q hq

theorem endProgram (k : Kept 0 held s) {b : BankId} {q : ProgramSequence} {f : ProgramPhase} {out : ProgramOutcome}
    (ha : (s.bank b).activity = .programming q f) : Kept 0 held (endProgram b q out s) := by
  have hq : (s.bank b).hasSequence q := Or.inl (by rw [ha]; rfl)
  refine Kept.programEnded (k.quitBank ?_) ((admitted_congr rfl rfl _).mpr (k.sequence_admitted hq))
  rw [ha]
  exact Nat.le_refl _

theorem grantRead (k : Kept 0 held s) {b : BankId} {a : ReadAccess} (hf : (s.bank b).isFree = true)
    (ha : (s.bank b).waiting.find? Access.isRead = some (.read a)) : Kept 0 held (grantRead b a s) := by
  have h1 := workOf_eraseP ha
  have hwork : ∀ e : Bool, workOf (if e = true then ((s.bank b).waiting.eraseP Access.isRead).map Access.credited
      else (s.bank b).waiting.eraseP Access.isRead) + (if a.ofMgmt then 1 else 0) = workOf (s.bank b).waiting := by
    intro e
    cases e
    · exact h1
    · simp only [if_true]; rw [workOf_credited]; exact h1
  have hseq : ∀ (e : Bool) (q : ProgramSequence), (∃ c, Access.media (.program q) c ∈
      (if e = true then ((s.bank b).waiting.eraseP Access.isRead).map Access.credited
        else (s.bank b).waiting.eraseP Access.isRead)) → (s.bank b).hasSequence q := by
    intro e q hq
    cases e
    · exact hasSequence_sub (fun _ hm => List.mem_of_mem_eraseP hm) hq
    · obtain ⟨c, hm⟩ := hq
      simp only [if_true] at hm
      obtain ⟨x, hx, he⟩ := List.mem_map.mp hm
      cases x with
      | read _ => cases he
      | media m c' =>
        simp only [Access.credited, Access.media.injEq] at he
        obtain ⟨rfl, _⟩ := he
        exact Or.inr ⟨c', List.mem_of_mem_eraseP hx⟩
  obtain ⟨hact, hnone⟩ := work_free hf
  unfold Machine.grantRead
  dsimp only
  split
  · refine Kept.completeRead (k.setBank ?_ ?_)
    · have := hwork (s.bank b).erase.isNone
      rw [mgmtWork_eq, mgmtWork_eq]
      dsimp only
      omega
    · intro q hq
      rcases hq with hq | hq
      · exact Or.inl (Or.inl hq)
      · exact Or.inl (hseq _ q hq)
  · refine k.setBank ?_ ?_
    · have := hwork (s.bank b).erase.isNone
      rw [mgmtWork_eq, mgmtWork_eq]
      dsimp only [Activity.mgmtWork]
      omega
    · intro q hq
      rcases hq with hq | hq
      · cases hq
      · exact Or.inl (hseq _ q hq)

theorem grantVerify (k : Kept 0 held s) {b : BankId} {sel : Access → Bool} {n sector line : Nat}
    (hf : (s.bank b).isFree = true) {c : Nat} (ha : (s.bank b).waiting.find? sel = some (.media (.verifyRead n sector line) c)) :
    Kept 0 held (grantVerify b sel n sector line s) := by
  have h1 := workOf_eraseP ha
  have h2 : (Access.media (.verifyRead n sector line) c).mgmtWork = 0 := rfl
  obtain ⟨hact, hnone⟩ := work_free hf
  unfold Machine.grantVerify
  dsimp only
  split
  · refine Kept.verifyReadDone (Kept.activateJob (k.serve ?_ ?_))
    · rw [mgmtWork_eq, mgmtWork_eq]
      dsimp only
      omega
    · intro q hq
      rcases hq with hq | hq
      · exact Or.inl hq
      · exact hasSequence_sub (fun _ hm => List.mem_of_mem_eraseP hm) hq
  · refine Kept.activateJob (k.serve ?_ ?_)
    · rw [mgmtWork_eq, mgmtWork_eq]
      dsimp only [Activity.mgmtWork]
      omega
    · intro q hq
      rcases hq with hq | hq
      · cases hq
      · exact hasSequence_sub (fun _ hm => List.mem_of_mem_eraseP hm) hq

/-- What a bank grants. -/
theorem grant (k : Kept 0 held s) {b : BankId} (hd : grant s b = some t) : Kept 0 held t := by
  unfold Machine.grant at hd
  dsimp only at hd
  split at hd
  · cases hd
  · rename_i hfree
    have hf : (s.bank b).isFree = true := by simpa using hfree
    have hr : ∀ {v}, grantReadOf b s = some v → Kept 0 held v := by
      intro v hv
      unfold grantReadOf at hv
      split at hv
      · rename_i a ha
        rw [← Option.some.inj hv]
        exact k.grantRead hf ha
      · cases hv
    have hv : ∀ {sel v}, grantVerifyOf b sel s = some v → Kept 0 held v := by
      intro sel v hv
      unfold grantVerifyOf at hv
      split at hv
      · rename_i ha
        rw [← Option.some.inj hv]
        exact k.grantVerify hf ha
      · cases hv
    split at hd
    · exact hr hd
    · split at hd
      · exact hv hd
      · split at hd
        · cases hd
        · split at hd
          · exact hr hd
          · exact hv hd

theorem beginProgram (k : Kept 0 held s) {b : BankId} {q : ProgramSequence} {c : Nat} (hf : (s.bank b).isFree = true)
    (ha : (s.bank b).waiting.find? Access.isSupplyBound = some (.media (.program q) c)) :
    Kept 0 held (beginProgram b q s) := by
  have h1 := workOf_eraseP ha
  obtain ⟨hact, hnone⟩ := work_free hf
  have hq : (s.bank b).hasSequence q := Or.inr ⟨c, List.mem_of_find?_eq_some ha⟩
  have had := k.sequence_admitted hq
  have hw : (Access.media (.program q) c).mgmtWork = if q.issuer.isRequest then 1 else 0 := rfl
  unfold Machine.beginProgram
  dsimp only
  split
  · have k1 : Kept (if q.issuer.isRequest then 1 else 0) held
        (s.setBank b { s.bank b with waiting := (s.bank b).waiting.eraseP Access.isSupplyBound }) := by
      refine k.setBank ?_ ?_
      · rw [mgmtWork_eq, mgmtWork_eq]
        dsimp only
        omega
      · intro q' hq'
        rcases hq' with hq' | hq'
        · exact Or.inl (Or.inl hq')
        · exact Or.inl (hasSequence_sub (fun _ hm => List.mem_of_mem_eraseP hm) hq')
    refine Kept.programEnded (Kept.quitBank k1.activate (by omega)) ?_
    refine (admitted_congr ?_ ?_ _).mpr had
    · unfold Machine.activate; split <;> rfl
    · unfold Machine.activate; split <;> rfl
  · refine Kept.activate (k.setBank ?_ ?_)
    · rw [mgmtWork_eq, mgmtWork_eq]
      dsimp only [Activity.mgmtWork]
      omega
    · intro q' hq'
      rcases hq' with hq' | hq'
      · cases hq'
        exact Or.inl hq
      · exact Or.inl (hasSequence_sub (fun _ hm => List.mem_of_mem_eraseP hm) hq')

/-- A waiting READ_RAW of a sector is the management port's. -/
theorem work_raw {sector : Nat} {a : Access} (h : isRawOf sector a = true) : a.mgmtWork = 1 := by
  cases a with
  | read r =>
    simp only [isRawOf, Bool.and_eq_true, beq_iff_eq] at h
    simp [Access.mgmtWork, ReadAccess.ofMgmt, h.1]
  | media _ _ => cases h

theorem withdrawRaw (k : Kept 0 held s) {b : BankId} {sector : Nat} : Kept 0 held (withdrawRaw b sector s) := by
  unfold Machine.withdrawRaw
  dsimp only
  split
  · rename_i hany
    obtain ⟨a, hm, hr⟩ := List.any_eq_true.mp hany
    refine Kept.respondMgmt (Kept.setReadMark (k.setBank ?_ ?_))
    · have h1 := workOf_filter_of_mem (p := fun a => !isRawOf sector a) hm (by simp [hr])
      have h2 := work_raw hr
      rw [mgmtWork_eq, mgmtWork_eq]
      dsimp only
      omega
    · intro q hq
      rcases hq with hq | hq
      · exact Or.inl (Or.inl hq)
      · exact Or.inl (hasSequence_sub (fun _ hm => (List.mem_filter.mp hm).1) hq)
  · exact k

theorem beginErase (k : Kept 0 held s) {b : BankId} {n sector c : Nat} (hf : (s.bank b).isFree = true)
    (ha : (s.bank b).waiting.find? Access.isSupplyBound = some (.media (.eraseStart n sector) c)) :
    Kept 0 held (beginErase b n sector s) := by
  have h1 := workOf_eraseP ha
  obtain ⟨hact, hnone⟩ := work_free hf
  have hw : (Access.media (.eraseStart n sector) c).mgmtWork = 0 := rfl
  unfold Machine.beginErase
  dsimp only
  split
  · refine Kept.eraseDone (Kept.quitBank (Kept.activateJob (k.serve ?_ ?_)) (Nat.zero_le _))
    · rw [mgmtWork_eq, mgmtWork_eq]
      dsimp only
      omega
    · intro q' hq'
      rcases hq' with hq' | hq'
      · exact Or.inl hq'
      · exact hasSequence_sub (fun _ hm => List.mem_of_mem_eraseP hm) hq'
  · refine Kept.withdrawRaw (Kept.activateJob (k.serve ?_ ?_))
    · rw [mgmtWork_eq, mgmtWork_eq]
      dsimp only [Activity.mgmtWork]
      omega
    · intro q' hq'
      rcases hq' with hq' | hq'
      · cases hq'
      · exact hasSequence_sub (fun _ hm => List.mem_of_mem_eraseP hm) hq'

/-- What a bank starts on its slot. -/
theorem start (k : Kept 0 held s) {b : BankId} (hd : start s b = some t) : Kept 0 held t := by
  unfold Machine.start at hd
  dsimp only at hd
  split at hd
  · cases hd
  · rename_i hg
    simp only [Bool.not_eq_true', Bool.not_eq_false, Bool.and_eq_true] at hg
    obtain ⟨hf, hs⟩ := hg
    obtain ⟨hact, hnone⟩ := work_free hf
    split at hd
    · split at hd
      · rw [← Option.some.inj hd]
        refine k.serve ?_ ?_
        · rw [mgmtWork_eq, mgmtWork_eq]
          dsimp only [Activity.mgmtWork]
          omega
        · intro q' hq'
          rcases hq' with hq' | hq'
          · cases hq'
          · exact Or.inr hq'
      · cases hd
    · split at hd
      · rename_i ha
        rw [← Option.some.inj hd]; exact k.beginProgram hf ha
      · rename_i ha
        rw [← Option.some.inj hd]; exact k.beginErase hf ha
      · cases hd
    · cases hd

theorem beginSuspend (k : Kept 0 held s) {b : BankId} (hd : beginSuspend s b = some t) : Kept 0 held t := by
  unfold Machine.beginSuspend at hd
  dsimp only at hd
  split at hd
  · rename_i ha _
    split at hd
    · rw [← Option.some.inj hd]
      refine k.serve ?_ ?_
      · rw [mgmtWork_eq, mgmtWork_eq]
        dsimp only [Activity.mgmtWork]
        omega
      · intro q' hq'
        rcases hq' with hq' | hq'
        · cases hq'
        · exact Or.inr hq'
    · cases hd
  · cases hd

/-- A bank's claim changes. -/
theorem claim (k : Kept 0 held s) {b : BankId} {v : Claim} : Kept 0 held (s.setBank b { s.bank b with claim := v }) :=
  k.serve (Nat.le_refl _) (fun _ hq => hq)

theorem lodgeResume (k : Kept 0 held s) {b : BankId} (hd : lodgeResume s b = some t) : Kept 0 held t := by
  unfold Machine.lodgeResume at hd
  dsimp only at hd
  split at hd
  · split at hd
    · rw [← Option.some.inj hd]; exact k.claim.lodge
    · cases hd
  · cases hd

theorem lodgeAccess (k : Kept 0 held s) {b : BankId} (hd : lodgeAccess s b = some t) : Kept 0 held t := by
  unfold Machine.lodgeAccess at hd
  dsimp only at hd
  split at hd
  · rw [← Option.some.inj hd]; exact k.claim.lodge
  · cases hd

theorem grantSlot (k : Kept 0 held s) (hd : grantSlot s = some t) : Kept 0 held t := by
  have hall : ∀ (a b : Option Claimant) (l : List Claimant), Kept 0 held { s with slotA := a, slotB := b, claims := l } :=
    fun a b l => k.congr rfl k.sectorsWf (fun _ => rfl) (fun _ => rfl) k.jobs rfl (fun _ _ hb => hb)
      (fun p hr => Or.inl (by cases p <;> exact hr)) rfl
  unfold Machine.grantSlot at hd
  split at hd
  · cases hd
  · split at hd
    · rw [← Option.some.inj hd]; exact hall _ _ _
    · split at hd
      · rw [← Option.some.inj hd]; exact hall _ _ _
      · cases hd

/-! ### The settings store -/

/-- The settings-store operation is as present as it was. -/
theorem setOp (k : Kept h held s) {o : Option SettingsOp}
    (ho : (if o.isSome then 1 else 0) + h' ≤ (if s.op.isSome then 1 else 0) + h) : Kept h' held { s with op := o } := by
  refine { dirWf := k.dirWf, sectorsWf := k.sectorsWf, tablesWf := k.tablesWf, names := k.names, retiring := k.retiring,
           counted := k.counted, bound := k.bound, inHand := k.inHand, owners := k.owners, jobs := ?_, service := ?_,
           sequences := ?_, closed := ?_, unread := k.unread, scanned := k.scanned }
  · intro n j hn
    exact (held_iff rfl n j.work).mpr (k.jobs n j hn)
  · have := k.service
    show (s.bank .zero).mgmtWork + (s.bank .one).mgmtWork + (s.bank .two).mgmtWork + (s.bank .three).mgmtWork
      + (if o.isSome then 1 else 0) + h' ≤ if s.mgmt.inService then 1 else 0
    unfold mgmtWork at this
    omega
  · intro b q hb
    exact (admitted rfl (fun _ => rfl) _).mpr (k.sequences b q hb)
  · intro hf
    refine ⟨fun p => ?_, (k.closed hf).2⟩
    have := (k.closed hf).1 p
    cases p <;> exact this

/-- The copies of the settings store change. -/
theorem refresh (k : Kept h held s) {w : SettingsWork} : Kept h held (w.refresh s) := by
  have hrow : Kept h held (refreshRow s) :=
    k.congr rfl k.sectorsWf (fun _ => rfl) (fun _ => rfl) k.jobs rfl (fun _ _ hb => hb)
      (fun p hr => Or.inl (by cases p <;> exact hr)) rfl
  have hboot : Kept h held (refreshBoot s) := by
    have hc : ∀ c, ((refreshBoot s).client c).apertures = (s.client c).apertures
        ∧ ((refreshBoot s).client c).port = (s.client c).port := by
      intro c
      unfold refreshBoot State.client
      dsimp only
      rw [Quad.get_map]
      exact ⟨rfl, rfl⟩
    refine k.congr rfl k.sectorsWf (fun _ => rfl) (fun c => (hc c).1) k.jobs rfl (fun _ _ hb => hb) (fun p hr => Or.inl ?_) rfl
    cases p with
    | mgmt => exact hr
    | client c =>
      have hr' : ((refreshBoot s).client c).port.state = .ready := hr
      rw [(hc c).2] at hr'
      exact hr'
  cases w
  · exact hrow
  · exact hrow
  · exact hboot
  · exact hboot
  · exact hboot

/-- The end of the settings-store operation. -/
theorem endSettings (k : Kept 0 held s) {w : SettingsWork} {st : Status} (ho : s.op.isSome = true) :
    Kept 0 held (endSettings w st s) := by
  refine Kept.respondMgmt (Kept.refresh (Kept.releaseSlot (k.setOp ?_)))
  rw [ho]
  simp

theorem settingsStart (k : Kept 0 held s) (hd : settingsStart s = some t) : Kept 0 held t := by
  unfold Machine.settingsStart at hd
  split at hd
  · rename_i o ho
    split at hd
    · rw [← Option.some.inj hd]
      have hs : s.op.isSome = true := by rw [ho]; rfl
      have hr : Kept 0 held { s with op := some { o with running := true, elapsed := 0 } } :=
        k.setOp (by rw [hs]; simp)
      have he : ∀ {st}, Kept 0 held (Machine.endSettings o.work st s) := k.endSettings hs
      unfold startSettings
      dsimp only
      split
      · split
        · exact hr
        · exact he
      · exact hr
      · exact hr
      all_goals
        split
        · exact he
        · split
          · exact he
          · exact hr
    · cases hd
  · cases hd

/-! ### Settling -/

theorem due (k : Kept 0 held s) (hd : due s = some t) : Kept 0 held t := by
  unfold Machine.due at hd
  simp only [Option.or_eq_some_iff] at hd
  have of : ∀ {f : BankId → Option State}, Four.all.findSome? f = some t → ∃ b, f b = some t := by
    intro f hf
    obtain ⟨b, _, hb⟩ := List.exists_of_findSome?_eq_some hf
    exact ⟨b, hb⟩
  rcases hd with hd | ⟨-, hd | ⟨-, hd | ⟨-, hd | ⟨-, hd | ⟨-, hd | ⟨-, hd⟩⟩⟩⟩⟩⟩
  · obtain ⟨b, hb⟩ := of hd; exact k.start hb
  · exact k.settingsStart hd
  · exact k.grantSlot hd
  · obtain ⟨b, hb⟩ := of hd; exact k.lodgeResume hb
  · obtain ⟨b, hb⟩ := of hd; exact k.grant hb
  · obtain ⟨b, hb⟩ := of hd; exact k.beginSuspend hb
  · obtain ⟨b, hb⟩ := of hd; exact k.lodgeAccess hb

/-- Settling keeps the laws. -/
theorem settle (k : Kept 0 held s) : Kept 0 held (settle s) := by
  have hn : ∀ n, ∀ {u : State}, Kept 0 held u → Kept 0 held (settleN n u) := by
    intro n
    induction n with
    | zero => exact fun ku => ku
    | succ n ih =>
      intro u ku
      unfold settleN
      split
      · exact ih (ku.due ‹_›)
      · exact ku
  exact hn _ k


/-! ### Takes -/

/-- A program sequence of a request at the management port joins its bank. -/
theorem startSequence (k : Kept 1 [] s) {q : ProgramSequence} (hq : q.issuer.Admitted s) : Kept 0 [] (startSequence q s) := by
  refine Kept.settle (k.join ?_ ?_)
  · show 0 + (if q.issuer.isRequest then 1 else 0) ≤ 1
    split <;> omega
  · intro q' c e
    cases e
    exact hq

theorem createRead (k : Kept h [] s) {a : ReadAccess} (hh : (if a.ofMgmt then 1 else 0) ≤ h) :
    Kept 0 [] (createRead a s) := by
  unfold Machine.createRead
  dsimp only
  have hc : Kept h [] (match a.entry with
      | some i => Machine.raiseReads i s
      | none => s) := by
    split
    · exact k.raiseReads
    · exact k
  refine Kept.settle (Kept.join hc.setReadMark ?_ ?_)
  · show 0 + (if a.ofMgmt then 1 else 0) ≤ h
    omega
  · intro q c e
    cases e

theorem newest_spec (k : Kept h held s) {name : Word32} {e : Nat × Image} (hn : newest s name = some e) :
    s.image e.1 = some e.2 ∧ e.2.state = .ready ∧ e.2.name = some name := by
  have hf : ∀ (l : List (Nat × Image)) (o : Option (Nat × Image)), l.foldl newerOf o = some e → o = some e ∨ e ∈ l := by
    intro l
    induction l with
    | nil => exact fun o h => Or.inl h
    | cons a l ih =>
      intro o h
      rcases ih _ h with h1 | h1
      · unfold newerOf at h1
        split at h1
        · split at h1
          · cases h1; exact Or.inr List.mem_cons_self
          · exact Or.inl h1
        · cases h1; exact Or.inr List.mem_cons_self
      · exact Or.inr (List.mem_cons_of_mem _ h1)
  rcases hf _ _ hn with h1 | h1
  · cases h1
  · obtain ⟨h2, h3⟩ := List.mem_filter.mp h1
    obtain ⟨⟨a, o⟩, h4, h5⟩ := List.mem_filterMap.mp h2
    cases o with
    | none => cases h5
    | some im =>
      dsimp only at h5
      split at h5
      · rename_i hnm
        cases h5
        exact ⟨(Table.get_of_mem k.dirWf h4).1, by simpa using h3, hnm⟩
      · cases h5

theorem pinned_spec (k : Kept h held s) {name : Word32} {g : Nat} {e : Nat × Image} (hn : pinned s name g = some e) :
    s.image e.1 = some e.2 ∧ e.2.state = .ready ∧ e.2.name = some name := by
  have h1 := List.mem_of_find?_eq_some hn
  have h2 := List.find?_some hn
  simp only [Bool.and_eq_true, beq_iff_eq] at h2
  obtain ⟨⟨a, o⟩, h4, h5⟩ := List.mem_filterMap.mp h1
  cases o with
  | none => cases h5
  | some im =>
    dsimp only at h5
    split at h5
    · rename_i hnm
      cases h5
      exact ⟨(Table.get_of_mem k.dirWf h4).1, h2.2, hnm⟩
    · cases h5

/-- The generation of an OPEN is no entry's of its name. -/
theorem generation_le {name : Word32} {i : Nat} {im : Image} (hi : s.image i = some im)
    (hn : im.name = some name) : im.generation ≤ greatestGeneration s name := by
  have hf : ∀ (l : List (Nat × Image)) (g : Nat), g ≤ l.foldl (fun g e => max g e.2.generation) g
      ∧ ∀ e ∈ l, e.2.generation ≤ l.foldl (fun g e => max g e.2.generation) g := by
    intro l
    induction l with
    | nil => exact fun g => ⟨Nat.le_refl _, fun e he => absurd he List.not_mem_nil⟩
    | cons a l ih =>
      intro g
      obtain ⟨h1, h2⟩ := ih (max g a.2.generation)
      refine ⟨Nat.le_trans (Nat.le_max_left _ _) h1, fun e he => ?_⟩
      rcases List.mem_cons.mp he with he | he
      · rw [he]; exact Nat.le_trans (Nat.le_max_right _ _) h1
      · exact h2 e he
  refine (hf _ 0).2 (i, im) (List.mem_filterMap.mpr ⟨(i, some im), Table.mem_of_get hi, ?_⟩)
  simp [hn]

/-- The extent check of an OPEN leaves an unowned extent. -/
theorem unowned_of_extent {first count : Nat} (he : extentRefusal s first count = none) {n : Nat} (h1 : first ≤ n)
    (h2 : n < first + count) : (s.sector n).owner = none := by
  unfold extentRefusal at he
  have := List.findSome?_eq_none_iff.mp he n (by
    simp only [extentSectors, List.mem_map, List.mem_range]
    exact ⟨n - first, by omega, by omega⟩)
  rw [Option.map_eq_none_iff] at this
  unfold sectorRefusal at this
  dsimp only at this
  cases ho : (s.sector n).owner with
  | none => rfl
  | some i =>
    rw [ho] at this
    cases this

theorem takeOpen (k : Kept 1 [] s) {name : Word32} {f c kd l : Nat} : Kept 0 [] (takeOpen name f c kd l s) := by
  unfold Machine.takeOpen
  split
  · split
    · exact k.respondMgmt
    · rename_i i hi
      split
      · exact k.respondMgmt
      · split
        · exact k.respondMgmt
        · rename_i he
          refine k.startSequence ⟨?_, rfl, rfl, ⟨name, rfl, fun j jm hj hn => ?_⟩, fun n h1 h2 => unowned_of_extent he h1 h2⟩
          · have := List.find?_some hi
            simpa using this
          · have := generation_le hj hn
            show jm.generation ≠ greatestGeneration s name + 1
            omega
  · exact k.respondMgmt

theorem takeWrite (k : Kept 1 [] s) {i o : Nat} {d : List Byte} : Kept 0 [] (takeWrite i o d s) := by
  unfold Machine.takeWrite
  split
  · exact k.respondMgmt
  · split
    · exact k.respondMgmt
    · split
      · exact k.respondMgmt
      · exact k.startSequence trivial

theorem takePublish (k : Kept 1 [] s) {i l : Nat} {c : Word32} : Kept 0 [] (takePublish i l c s) := by
  unfold Machine.takePublish
  split
  · exact k.respondMgmt
  · split
    · exact k.respondMgmt
    · rename_i im hi
      split
      · exact k.respondMgmt
      · rename_i hr
        refine k.startSequence ⟨im, hi, ?_⟩
        unfold publishRefusal at hr
        split at hr
        · cases hr
        · rename_i hs
          simpa using hs

theorem takeRetire (k : Kept 1 [] s) {i : Nat} : Kept 0 [] (takeRetire i s) := by
  unfold Machine.takeRetire
  split
  · exact k.respondMgmt
  · split
    · exact k.respondMgmt
    · rename_i im hi
      split
      · exact k.respondMgmt
      · rename_i hs
        split
        · exact k.respondMgmt
        · exact k.startSequence ⟨im, hi, by simpa using hs⟩

theorem takeDiscard (k : Kept 1 [] s) {i : Nat} : Kept 0 [] (takeDiscard i s) := by
  unfold Machine.takeDiscard
  split
  · exact k.respondMgmt
  · split
    · exact k.respondMgmt
    · rename_i im hi
      split
      · exact k.respondMgmt
      · rename_i hs
        split
        · exact k.respondMgmt
        · split
          · exact k.respondMgmt
          · exact k.startSequence ⟨im, hi, by simpa using hs⟩

/-- An abandoned job's verify read leaves the banks. -/
theorem dropVerifies (k : Kept h held s) {n : Nat} : Kept h held { s with banks := s.banks.map fun _ b => dropVerify n b } := by
  have hb : ∀ b, ({ s with banks := s.banks.map fun _ b => dropVerify n b } : State).bank b = dropVerify n (s.bank b) :=
    fun b => Quad.get_map _ _ _
  have hact : ∀ b, (dropVerify n b).activity.mgmtWork = b.activity.mgmtWork
      ∧ (dropVerify n b).activity.sequence = b.activity.sequence := by
    intro b
    unfold dropVerify
    dsimp only
    split
    · rename_i he
      rw [he]
      split <;> exact ⟨rfl, rfl⟩
    · exact ⟨rfl, rfl⟩
  have hwait : ∀ l : List Access, workOf (l.filter fun a => match a with
      | .media (.verifyRead m _ _) _ => m != n
      | _ => true) = workOf l := by
    intro l
    induction l with
    | nil => rfl
    | cons a l ih =>
      rw [workOf_cons, ← ih]
      cases a with
      | read r => rw [List.filter_cons_of_pos rfl, workOf_cons]
      | media m c =>
        cases m with
        | verifyRead m sector line =>
          rw [List.filter_cons]
          dsimp only
          by_cases hm : (m != n) = true
          · rw [if_pos hm, workOf_cons]
          · rw [if_neg hm]; exact (Nat.zero_add _).symm
        | program q => rw [List.filter_cons_of_pos rfl, workOf_cons]
        | eraseStart m sector => rw [List.filter_cons_of_pos rfl, workOf_cons]
  have hwork : ∀ b, (dropVerify n b).mgmtWork = b.mgmtWork := by
    intro b
    rw [mgmtWork_eq, mgmtWork_eq, (hact b).1]
    congr 1
    exact hwait b.waiting
  refine k.congr rfl k.sectorsWf (fun _ => rfl) (fun _ => rfl) k.jobs ?_ ?_ (fun p hr => Or.inl (by cases p <;> exact hr)) rfl
  · unfold mgmtWork
    simp only [hb, hwork]
  · intro b q hq
    rw [hb] at hq
    rcases hq with hq | ⟨c, hm⟩
    · exact Or.inl (by rw [← (hact _).2]; exact hq)
    · exact Or.inr ⟨c, (List.mem_filter.mp hm).1⟩

theorem takeAbandon (k : Kept 1 [] s) {n : Nat} : Kept 0 [] (takeAbandon n s) := by
  unfold Machine.takeAbandon
  split
  · exact k.respondMgmt
  · split
    · exact k.respondMgmt
    · rename_i j hj
      split
      · rename_i i checked crc hw
        have hh := k.jobs n j hj
        rw [hw] at hh
        obtain ⟨im, hi, hs⟩ := hh
        unfold abandonVerify
        rw [updImage_some (s := { s with banks := s.banks.map fun _ b => dropVerify n b }) hi]
        refine Kept.respondMgmt ?_
        exact k.dropVerifies.endsEntry (st := .opened) hi (Or.inl hs) (by simp)
      all_goals exact k.respondMgmt

theorem takeErase (k : Kept 1 [] s) {n : Nat} : Kept 0 [] (takeErase n s) := by
  unfold Machine.takeErase
  split
  · exact k.respondMgmt
  · split
    · exact k.respondMgmt
    · rename_i m _ _
      have k1 := k.updSector (n := n) (f := fun r => { r with target := some m }) fun _ => rfl
      exact Kept.settle (Kept.respondMgmt (k1.admitJob (w := .erase n) (m := .eraseStart m n) trivial fun q e => by cases e))
    · exact k.respondMgmt

theorem boundIn_revoke (i j : Nat) (l : List (Nat × Option Aperture)) :
    boundIn j (Table.map none (revokeRecord i) l) + boundIn j (l.filter fun e => boundTo i e.2) = boundIn j l := by
  induction l with
  | nil => rfl
  | cons e l ih =>
    obtain ⟨a, o⟩ := e
    rw [List.filter_cons, boundIn_cons]
    simp only [Table.map]
    cases o with
    | none =>
      have h1 : revokeRecord i none = none := rfl
      rw [if_pos h1]
      simp only [boundTo, Bool.false_eq_true, if_false, Nat.zero_add]
      exact ih
    | some r =>
      by_cases hb : boundTo i (some r) = true
      · have h1 : revokeRecord i (some r) = some { r with revoked := true } := by simp [revokeRecord, hb]
        rw [h1, if_neg (by simp), if_pos hb, boundIn_cons, boundIn_cons]
        have h2 : boundTo j (some { r with revoked := true }) = false := by simp [boundTo]
        simp only [h2, Bool.false_eq_true, if_false]
        omega
      · have h1 : revokeRecord i (some r) = some r := by simp [revokeRecord, hb]
        rw [h1, if_neg (by simp), if_neg (by simpa using hb), boundIn_cons]
        dsimp only
        omega

theorem revokeAt_apertures (i : Nat) (u : ClientUnit) (hw : Table.wf none u.apertures = true) :
    Table.wf none (revokeAt i u).apertures = true
    ∧ (∀ j, boundIn j (revokeAt i u).apertures + boundIn j (u.apertures.filter fun e => boundTo i e.2) = boundIn j u.apertures)
    ∧ (∀ a r, Table.get none (revokeAt i u).apertures a = some r → r.revoked = false → Table.get none u.apertures a = some r)
    ∧ (revokeAt i u).port.state = u.port.state := by
  unfold revokeAt
  split
  · rename_i h0
    refine ⟨hw, fun j => ?_, fun _ _ hr _ => hr, rfl⟩
    have : u.apertures.filter (fun e => boundTo i e.2) = [] := List.length_eq_zero_iff.mp h0
    rw [this]
    rfl
  · refine ⟨Table.wf_map _ hw, fun j => boundIn_revoke i j _, fun a r hr hrev => ?_, rfl⟩
    dsimp only at hr
    rw [Table.get_map _ rfl hw] at hr
    unfold revokeRecord at hr
    split at hr
    · cases ho : Table.get none u.apertures a with
      | none => rw [ho] at hr; cases hr
      | some r' =>
        rw [ho] at hr
        simp only [Option.map_some, Option.some.injEq] at hr
        rw [← hr] at hrev
        cases hrev
    · exact hr

theorem boundIn_append (i : Nat) (l m : List (Nat × Option Aperture)) : boundIn i (l ++ m) = boundIn i l + boundIn i m := by
  simp only [boundIn, List.filter_append, List.length_append]

/-- The records of an entry are revoked, and its counts examined. -/
theorem revokes (k : Kept h [] s) {i : Nat} {im : Image} (hi : s.image i = some im) (hs : im.state = .retiring) :
    Kept h [] ({ s with clients := s.clients.map fun _ u => revokeAt i u }.setImage i
      (some (retireIfIdle { im with bindings := 0 }))) := by
  have hc : ∀ c, ({ s with clients := s.clients.map fun _ u => revokeAt i u } : State).client c = revokeAt i (s.client c) :=
    fun c => Quad.get_map _ _ _
  have hsp := fun c => revokeAt_apertures i (s.client c) (k.tablesWf c)
  have k1 : Kept h ((s.client .zero).apertures.filter (fun e => boundTo i e.2)
      ++ ((s.client .one).apertures.filter (fun e => boundTo i e.2)
      ++ ((s.client .two).apertures.filter (fun e => boundTo i e.2)
      ++ (s.client .three).apertures.filter (fun e => boundTo i e.2))))
      { s with clients := s.clients.map fun _ u => revokeAt i u } := by
    refine k.retable ?_ ?_ ?_ ?_ ?_
    · intro c
      rw [Quad.get_map]
      exact (hsp c).1
    · intro c
      rw [Quad.get_map]
      exact (hsp c).2.2.2
    · intro j
      rw [totalBound_eq, totalBound_eq]
      simp only [hc, boundIn_append]
      have h0 := (hsp .zero).2.1 j
      have h1 := (hsp .one).2.1 j
      have h2 := (hsp .two).2.1 j
      have h3 := (hsp .three).2.1 j
      simp only [boundIn, List.filter_nil, List.length_nil] at h0 h1 h2 h3 ⊢
      omega
    · intro c ap r hr hrev
      rw [Quad.get_map] at hr
      exact k.bound c ap r ((hsp c).2.2.1 ap r hr hrev) hrev
    · intro a r hm hrev
      have hin : ∃ c, (a, some r) ∈ (s.client c).apertures := by
        simp only [List.mem_append, List.mem_filter] at hm
        rcases hm with hm | hm | hm | hm
        · exact ⟨_, hm.1⟩
        · exact ⟨_, hm.1⟩
        · exact ⟨_, hm.1⟩
        · exact ⟨_, hm.1⟩
      obtain ⟨c, hm⟩ := hin
      exact k.bound c a r (Table.get_of_mem (k.tablesWf c) hm).1 hrev
  have hzero : ∀ j, j ≠ i → ∀ l : List (Nat × Option Aperture), boundIn j (l.filter fun e => boundTo i e.2) = 0 := by
    intro j hj l
    unfold boundIn
    rw [List.length_eq_zero_iff, List.filter_eq_nil_iff]
    intro e he hb
    have h1 := (List.mem_filter.mp he).2
    cases ho : e.2 with
    | none => rw [ho] at hb; cases hb
    | some r =>
      rw [ho] at hb h1
      simp only [boundTo, Bool.and_eq_true, beq_iff_eq] at hb h1
      exact hj (by rw [← hb.2, h1.2])
  have hall : ∀ l : List (Nat × Option Aperture), boundIn i (l.filter fun e => boundTo i e.2) = boundIn i l := by
    intro l
    unfold boundIn
    rw [List.filter_filter]
    simp only [Bool.and_self]
  obtain ⟨h1, h2, h3, h4, h5, h6, h7, h8, h9, h10⟩ := retireIfIdle_spec { im with bindings := 0 }
  dsimp only at h1 h2 h3 h4 h5 h6 h7 h8 h9 h10
  have hi' : ({ s with clients := s.clients.map fun _ u => revokeAt i u } : State).image i = some im := hi
  refine k1.setImage hi' ⟨h1, h2, h3, h4, h5⟩ ?_ ?_ ?_ (fun a r hm _ => absurd hm List.not_mem_nil) (Or.inr h7) ?_ ?_
  · rw [h7, h8]; exact h10
  · rw [h7]
    simp only [boundIn_append, hall]
    have := k.counted i im hi
    rw [totalBound_eq] at this
    simp only [boundIn, List.filter_nil, List.length_nil] at this ⊢
    omega
  · intro j hj
    simp only [boundIn_append, hzero j hj]
    rfl
  · intro n hn
    rw [hs] at hn
    rcases hn with hn | hn <;> cases hn
  · rcases h9 with h9 | ⟨_, _, h9⟩
    · exact Or.inl h9
    · exact Or.inr (Or.inr (by rw [hs]; exact ⟨rfl, by simp⟩))

theorem takeRevoke (k : Kept 1 [] s) {i : Nat} : Kept 0 [] (takeRevoke i s) := by
  unfold Machine.takeRevoke
  split
  · exact k.respondMgmt
  · split
    · exact k.respondMgmt
    · rename_i im hi
      split
      · exact k.respondMgmt
      · rename_i hs
        exact (k.revokes hi (by simpa using hs)).respondMgmt

theorem takeFetch (k : Kept 0 [] s) {c : ClientId} {ap o l a : Nat} : Kept 0 [] (takeFetch c ap o l a s) := by
  unfold Machine.takeFetch
  split
  · exact k.respondClient
  · split
    · exact k.respondClient
    · split
      · exact k.respondClient
      · exact k.createRead (Nat.le_refl _)

theorem takeRead (k : Kept 1 [] s) {i o l : Nat} : Kept 0 [] (takeRead i o l s) := by
  unfold Machine.takeRead
  split
  · exact k.respondMgmt
  · split
    · exact k.respondMgmt
    · split
      · exact k.respondMgmt
      · exact k.createRead (Nat.le_refl _)

theorem takeReadRaw (k : Kept 1 [] s) {n l f b : Nat} : Kept 0 [] (takeReadRaw n l f b s) := by
  unfold Machine.takeReadRaw
  split
  · exact k.respondMgmt
  · split
    · exact k.respondMgmt
    · split
      · exact k.respondMgmt
      · exact k.createRead (Nat.le_refl _)

theorem setLevel (k : Kept h held s) {c : ClientId} {l : Nat} : Kept h held (setLevel c l s) := by
  have hc : ∀ d, ((Machine.setLevel c l s).client d).apertures = (s.client d).apertures
      ∧ ((Machine.setLevel c l s).client d).port = (s.client d).port := by
    intro d
    unfold Machine.setLevel
    rw [client_setClient]
    split
    · rename_i hd; rw [hd]; exact ⟨rfl, rfl⟩
    · exact ⟨rfl, rfl⟩
  refine k.congr rfl k.sectorsWf (fun _ => rfl) (fun d => (hc d).1) k.jobs rfl (fun _ _ hb => hb) (fun p hr => Or.inl ?_) rfl
  cases p with
  | mgmt => exact hr
  | client d =>
    have hr' : ((Machine.setLevel c l s).client d).port.state = .ready := hr
    rw [(hc d).2] at hr'
    exact hr'

theorem startOperation (k : Kept 1 [] s) {w : SettingsWork} : Kept 0 [] (startOperation w s) := by
  refine Kept.settle (Kept.lodge (k.setOp ?_))
  simp

theorem takeClearAccessed (k : Kept 1 [] s) {i : Nat} : Kept 0 [] (takeClearAccessed i s) := by
  unfold Machine.takeClearAccessed
  split
  · exact k.respondMgmt
  · split
    · exact k.respondMgmt
    · rename_i im hi
      have := k.setAccessed (i := i) (v := false)
      rw [updImage_some hi] at this
      exact this.respondMgmt

theorem polls (k : Kept h held s) {p : Port} :
    Kept h held (s.setPort p { s.port p with causes := (s.port p).causes.polled }) :=
  k.setPort (fun hr => Or.inl hr) (fun e => by subst e; rfl)

theorem takeAtMgmt (k : Kept 1 [] s) {r : Request} : Kept 0 [] (takeAtMgmt r s) := by
  cases r
  case identify => exact k.respondMgmt
  case poll => exact k.polls.respondMgmt
  case entry => simp only [Machine.takeAtMgmt, takeEntry]; split <;> exact k.respondMgmt
  case find => simp only [Machine.takeAtMgmt, takeFind]; split <;> exact k.respondMgmt
  case sector => simp only [Machine.takeAtMgmt, takeSector]; split <;> exact k.respondMgmt
  case jobs => exact k.respondMgmt
  case openImage => exact k.takeOpen
  case write => exact k.takeWrite
  case publish => exact k.takePublish
  case abandon => exact k.takeAbandon
  case retire => exact k.takeRetire
  case revoke => exact k.takeRevoke
  case discard => exact k.takeDiscard
  case erase => exact k.takeErase
  case clearAccessed => exact k.takeClearAccessed
  case read => exact k.takeRead
  case readRaw => exact k.takeReadRaw
  case setLevel =>
    simp only [Machine.takeAtMgmt, takeSetLevel]
    split
    · exact k.setLevel.respondMgmt
    · exact k.respondMgmt
  case protect =>
    simp only [Machine.takeAtMgmt, takeProtect]
    split
    · exact k.respondMgmt
    · split
      · exact k.respondMgmt
      · exact k.startOperation
  case unprotectAll =>
    simp only [Machine.takeAtMgmt, takeUnprotectAll]
    split
    · exact k.respondMgmt
    · exact k.startOperation
  case bootSet =>
    simp only [Machine.takeAtMgmt, takeBootSet]
    split
    · split
      · exact k.respondMgmt
      · exact k.startOperation
    · exact k.respondMgmt
  case bootClear =>
    simp only [Machine.takeAtMgmt, takeBootClear]
    split
    · exact k.respondMgmt
    · exact k.startOperation
  case bootLock => exact k.startOperation
  all_goals exact k.respondMgmt

theorem takeBind (k : Kept 0 [] s) {c : ClientId} {ap g : Nat} {n : Word32} : Kept 0 [] (takeBind c ap n g s) := by
  unfold Machine.takeBind
  split
  · exact k.respondClient
  · split
    · exact k.respondClient
    · rename_i hap
      split
      · exact k.respondClient
      · rename_i e he
        split
        · exact k.respondClient
        · have hsp : s.image e.1 = some e.2 ∧ e.2.state = .ready ∧ e.2.name = some n := by
            unfold resolve at he
            split at he
            · exact k.newest_spec he
            · exact k.pinned_spec he
          refine Kept.respondClient (k.bindAperture ?_ hsp.1 hsp.2.1 ⟨n, hsp.2.2⟩)
          simpa using hap

theorem takeUnbind (k : Kept 0 [] s) {c : ClientId} {ap : Nat} : Kept 0 [] (takeUnbind c ap s) := by
  unfold Machine.takeUnbind
  split
  · exact k.respondClient
  · split
    · exact k.respondClient
    · rename_i r hr
      exact (k.unbindAperture hr).respondClient

theorem takeAtClient (k : Kept 0 [] s) {c : ClientId} {r : Request} : Kept 0 [] (takeAtClient c r s) := by
  cases r
  case identify => exact k.respondClient
  case poll => exact k.polls.respondClient
  case bind => exact k.takeBind
  case unbind => exact k.takeUnbind
  case describe => simp only [Machine.takeAtClient, takeDescribe]; split <;> exact k.respondClient
  case fetch => exact k.takeFetch
  all_goals exact k.respondClient

/-- A port that can take is READY, with no request in service. -/
theorem of_canTake {u : PortUnit} (hc : u.canTake = true) : u.state = .ready ∧ u.inService = false := by
  simp only [PortUnit.canTake, Bool.and_eq_true, beq_iff_eq, Bool.not_eq_true'] at hc
  exact ⟨hc.1.1.1.1, hc.1.1.2⟩

theorem takeHead (k : Kept 0 [] s) {p : Port} (hc : (s.port p).canTake = true) : Kept 0 [] (takeHead p s) := by
  obtain ⟨hr, hi⟩ := of_canTake hc
  unfold Machine.takeHead
  split
  · cases p with
    | client c =>
      exact Kept.takeAtClient (k.setPort (p := .client c) (fun _ => Or.inl hr) (fun e => by cases e))
    | mgmt =>
      refine Kept.takeAtMgmt ?_
      have hi' : s.mgmt.inService = false := hi
      have hw := k.service
      rw [hi'] at hw
      have hfin : s.scanStage = .finished := by
        by_cases hf : s.scanStage = .finished
        · exact hf
        · exact absurd hr ((k.closed hf).1 .mgmt)
      refine { dirWf := k.dirWf, sectorsWf := k.sectorsWf, tablesWf := k.tablesWf, names := k.names, retiring := k.retiring,
               counted := k.counted, bound := k.bound, inHand := k.inHand, owners := k.owners, jobs := ?_, service := ?_,
               sequences := ?_, closed := ?_, unread := k.unread, scanned := k.scanned }
      · intro n j hn
        exact (held_iff rfl n j.work).mpr (k.jobs n j hn)
      · show mgmtWork s + 1 ≤ 1
        simp at hw
        omega
      · intro b q hb
        exact (admitted rfl (fun _ => rfl) _).mpr (k.sequences b q hb)
      · intro hf
        exact absurd hfin hf
  · exact k

/-- The takes of a port keep the laws. -/
theorem takesAt (k : Kept 0 [] s) {p : Port} : Kept 0 [] (takesAt p s) := by
  have hn : ∀ n, ∀ {u : State}, Kept 0 [] u → Kept 0 [] (takeN n p u) := by
    intro n
    induction n with
    | zero => exact fun ku => ku
    | succ n ih =>
      intro u ku
      unfold takeN
      split
      · exact ih (ku.takeHead ‹_›)
      · exact ku
  exact hn _ k

/-- The takes of all ports keep the laws. -/
theorem takesAll (k : Kept 0 [] s) : Kept 0 [] (takesAll s) := by
  have hn : ∀ n, ∀ {u : State}, Kept 0 [] u → Kept 0 [] (takeAnyN n u) := by
    intro n
    induction n with
    | zero => exact fun ku => ku
    | succ n ih =>
      intro u ku
      unfold takeAnyN
      split
      · rename_i v hv
        refine ih ?_
        unfold takeAny at hv
        rw [Option.map_eq_some_iff] at hv
        obtain ⟨p, hp, rfl⟩ := hv
        exact ku.takeHead (List.find?_some (p := fun q => (u.port q).canTake) hp)
      · exact ku
  exact hn _ k

/-- The end of an event keeps the laws. -/
theorem conclude (k : Kept 0 [] s) : Kept 0 [] (conclude s) := k.settle.takesAll


/-! ### Arrivals -/

/-- The flash, the free values and the pins are no matter. -/
theorem flash (k : Kept h held s) {m b : List Host.Cell} {r : BitVec 64} {n : Nat} :
    Kept h held { s with mem := m, boot := b, row := r, freeCount := n } :=
  k.congr rfl k.sectorsWf (fun _ => rfl) (fun _ => rfl) k.jobs rfl (fun _ _ hb => hb)
    (fun p hr => Or.inl (by cases p <;> exact hr)) rfl

theorem wires (k : Kept h held s) {v : Bool} : Kept h held { s with wpHigh := v } :=
  k.congr rfl k.sectorsWf (fun _ => rfl) (fun _ => rfl) k.jobs rfl (fun _ _ hb => hb)
    (fun p hr => Or.inl (by cases p <;> exact hr)) rfl

theorem pends (k : Kept h held s) {l : List Instr} : Kept h held { s with pending := l } :=
  k.congr rfl k.sectorsWf (fun _ => rfl) (fun _ => rfl) k.jobs rfl (fun _ _ hb => hb)
    (fun p hr => Or.inl (by cases p <;> exact hr)) rfl

theorem answer (k : Kept h held s) {p : Port} {kind tag : Byte} {st : Status} : Kept h held (answer p kind tag st s) := by
  refine k.setPort ?_ ?_
  · unfold PortUnit.answerAtOnce
    split
    · rw [state_place]; exact Or.inl
    · exact Or.inl
  · intro e
    subst e
    unfold PortUnit.answerAtOnce
    split
    · rw [inService_place]; rfl
    · rfl

theorem enqueue (k : Kept 0 [] s) {p : Port} {tag : Byte} {r : Request} : Kept 0 [] (enqueue p tag r s) := by
  unfold Machine.enqueue
  split
  · exact Kept.takesAt (k.setPort (p := p) (u := { s.port p with queue := (s.port p).queue ++ [(tag, r)] })
      (fun hr => Or.inl hr) (fun e => by subst e; rfl))
  · exact k.answer

theorem arrive (k : Kept 0 [] s) {p : Port} {tag : Byte} {r : Request} : Kept 0 [] (arrive p tag r s) := by
  unfold Machine.arrive
  split
  · exact k
  · split
    · exact k.answer
    · exact k.enqueue

theorem answerFrame (k : Kept h held s) {p : Port} {bytes : List Byte} {st : Status} :
    Kept h held (answerFrame p bytes st s) := k.flash.answer

theorem frameArrives (k : Kept 0 [] s) {p : Port} {bytes : List Byte} : Kept 0 [] (frameArrives p bytes s) := by
  unfold Machine.frameArrives
  split
  · exact k
  · split
    · exact k.answerFrame
    · split
      · exact k.answerFrame
      · split
        · exact k.answerFrame
        · split
          · exact k.answerFrame
          · exact k.enqueue

theorem frameSent (k : Kept 0 [] s) {p : Port} : Kept 0 [] (frameSent p s) := by
  unfold Machine.frameSent
  split
  · exact k
  · exact Kept.takesAt (k.setPort (p := p) (u := (s.port p).sent) (fun hr => Or.inl hr) (fun e => by subst e; rfl))

/-! ### Resets -/

/-- With every volatile item at its reset value the laws hold. -/
theorem clearVolatile (s : State) : Kept 0 [] (clearVolatile s) := by
  have hi : ∀ i, (Machine.clearVolatile s).image i = none := fun _ => rfl
  have hc : ∀ c, (Machine.clearVolatile s).client c = { line := (s.client c).line } := fun c => Quad.get_map _ _ _
  have hb : ∀ b, (Machine.clearVolatile s).bank b = {} := by intro b; cases b <;> rfl
  refine { dirWf := rfl, sectorsWf := rfl, tablesWf := fun c => by rw [hc]; rfl, names := ?_, retiring := ?_,
           counted := ?_, bound := ?_, inHand := ?_, owners := ?_, jobs := ?_, service := ?_,
           sequences := ?_, closed := ?_, unread := fun _ => hi, scanned := ?_ }
  · intro i j im jm name h1
    rw [hi] at h1; cases h1
  · intro i im h1
    rw [hi] at h1; cases h1
  · intro i im h1
    rw [hi] at h1; cases h1
  · intro c ap r h1
    unfold State.aperture at h1
    rw [hc] at h1
    cases h1
  · exact fun a r hm => absurd hm List.not_mem_nil
  · intro n i
    constructor
    · intro h1; cases h1
    · rintro ⟨im, h1, _⟩
      rw [hi] at h1; cases h1
  · intro n j h1; cases h1
  · unfold mgmtWork
    simp only [hb]
    exact Nat.zero_le _
  · intro b q hq
    rw [hb] at hq
    rcases hq with hq | ⟨c, hm⟩
    · cases hq
    · exact absurd hm List.not_mem_nil
  · intro _
    refine ⟨fun p => ?_, rfl⟩
    cases p with
    | mgmt => intro e; cases e
    | client c =>
      show ((Machine.clearVolatile s).client c).port.state ≠ .ready
      rw [hc]
      intro e; cases e
  · intro e; cases e

theorem assertReset (s : State) : Kept 0 [] (assertReset s) := clearVolatile _

theorem setHeld (k : Kept h held s) {v : Bool} : Kept h held { s with resetHeld := v } :=
  k.congr rfl k.sectorsWf (fun _ => rfl) (fun _ => rfl) k.jobs rfl (fun _ _ hb => hb)
    (fun p hr => Or.inl (by cases p <;> exact hr)) rfl

theorem releaseReset (k : Kept h held s) : Kept h held (releaseReset s) := by
  have hp : ∀ {u : State} {c : ClientId}, Kept h held u → Kept h held (beginPort u c) := by
    intro u c ku
    unfold beginPort
    split
    · exact Kept.raise (ku.setPort (fun e => by cases e) (fun e => by cases e))
    · exact ku
  unfold Machine.releaseReset
  split
  · exact hp (hp (hp (hp k.setHeld)))
  · exact k

theorem setLine (k : Kept h held s) {c : ClientId} {v : Bool} : Kept h held (setLine c v s) := by
  have hc : ∀ d, ((Machine.setLine c v s).client d).apertures = (s.client d).apertures
      ∧ ((Machine.setLine c v s).client d).port = (s.client d).port := by
    intro d
    unfold Machine.setLine
    rw [client_setClient]
    split
    · rename_i hd; rw [hd]; exact ⟨rfl, rfl⟩
    · exact ⟨rfl, rfl⟩
  refine k.congr rfl k.sectorsWf (fun _ => rfl) (fun d => (hc d).1) k.jobs rfl (fun _ _ hb => hb) (fun p hr => Or.inl ?_) rfl
  cases p with
  | mgmt => exact hr
  | client d =>
    have hr' : ((Machine.setLine c v s).client d).port.state = .ready := hr
    rw [(hc d).2] at hr'
    exact hr'

theorem dropReadsAt (k : Kept h held s) {p : Port} {b : BankId} : Kept h held (dropReadsAt p s b) := by
  have hact : (dropReads p (s.bank b)).activity.mgmtWork = (s.bank b).activity.mgmtWork
      ∧ (dropReads p (s.bank b)).activity.sequence = (s.bank b).activity.sequence := by
    unfold dropReads
    dsimp only
    split
    · rename_i he
      rw [he]
      split <;> exact ⟨rfl, rfl⟩
    · exact ⟨rfl, rfl⟩
  have k1 : Kept h held (s.setBank b (dropReads p (s.bank b))) := by
    refine k.serve ?_ ?_
    · rw [mgmtWork_eq, mgmtWork_eq, hact.1]
      have := workOf_filter (fun a => !isReadOf p a) (s.bank b).waiting
      show _ + workOf ((s.bank b).waiting.filter fun a => !isReadOf p a) ≤ _
      omega
    · intro q hq
      rcases hq with hq | ⟨c, hm⟩
      · exact Or.inl (by rw [← hact.2]; exact hq)
      · exact Or.inr ⟨c, (List.mem_filter.mp hm).1⟩
  have hl : ∀ (l : List Nat) {u : State}, Kept h held u → Kept h held (l.foldl (fun t i => Machine.lowerReads i t) u) := by
    intro l
    induction l with
    | nil => exact fun ku => ku
    | cons i l ih => exact fun ku => ih ku.lowerReads
  unfold Machine.dropReadsAt
  dsimp only
  split
  · exact (hl _ k1).setReadMark
  · exact hl _ k1

theorem resets (k : Kept h held s) {c : ClientId} :
    Kept h held (s.setPort (.client c) (s.client c).port.resetting) :=
  k.setPort (fun e => by cases e) (fun e => by cases e)

theorem resetReadyPort (k : Kept 0 [] s) {c : ClientId} : Kept 0 [] (resetReadyPort c s) :=
  Kept.raise (Kept.resets (Kept.emptyTable k.dropReadsAt.dropReadsAt.dropReadsAt.dropReadsAt))

theorem assertPortReset (k : Kept 0 [] s) {c : ClientId} : Kept 0 [] (assertPortReset c s) := by
  unfold Machine.assertPortReset
  dsimp only
  split
  · exact k.setLine
  · split
    · exact k.setLine.resetReadyPort.conclude
    · exact k.setLine.resets.raise
    · exact k.setLine

/-- Boot binding with an EMPTY table keeps the laws. -/
theorem bootBind (k : Kept h [] s) {c : ClientId} (ha : (s.client c).apertures = []) : Kept h [] (bootBind c s) := by
  unfold Machine.bootBind
  dsimp only
  split
  · exact k.setLevel
  · exact k.setLevel.raise
  · split
    · rename_i e he
      have hsp : ∀ {n l}, bootCandidate (Machine.setLevel c (s.client c).bootCopy.level s) n l = some e →
          s.image e.1 = some e.2 ∧ e.2.state = .ready ∧ ∃ name, e.2.name = some name := by
        intro n l h1
        unfold bootCandidate at h1
        rw [Option.filter_eq_some_iff] at h1
        obtain ⟨h2, h3, h4⟩ := k.newest_spec (name := n) h1.1
        exact ⟨h2, h3, n, h4⟩
      have hall : s.image e.1 = some e.2 ∧ e.2.state = .ready ∧ ∃ name, e.2.name = some name := by
        rcases Option.or_eq_some_iff.mp he with h1 | ⟨_, h1⟩
        · exact hsp h1
        · exact hsp h1
      refine k.setLevel.bindAperture ?_ hall.1 hall.2.1 hall.2.2
      unfold State.aperture Machine.setLevel
      rw [client_setClient_same]
      dsimp only
      rw [ha]
      rfl
    · exact k.setLevel.raise

/-- Boot binding touches its own port only. -/
theorem client_bootBind {c d : ClientId} (hd : d ≠ c) : (Machine.bootBind c s).client d = s.client d := by
  have h1 : ∀ l, (Machine.setLevel c l s).client d = s.client d := fun l => client_setClient_ne _ _ hd
  have h2 : ∀ (u : State) (x : Cause), (Machine.raise (.client c) x u).client d = u.client d := by
    intro u x
    unfold Machine.raise
    rw [client_setPort, if_neg]
    intro e; cases e; exact hd rfl
  unfold Machine.bootBind
  dsimp only
  split
  · exact h1 _
  · rw [h2]; exact h1 _
  · split
    · unfold Machine.bindAperture Machine.raiseBindings State.client
      rw [updImage_clients]
      exact (client_setClient_ne _ _ hd).trans (h1 _)
    · rw [h2]; exact h1 _

theorem scanStage_bootBind (c : ClientId) : (Machine.bootBind c s).scanStage = s.scanStage := by
  unfold Machine.bootBind
  dsimp only
  split
  · rfl
  · unfold Machine.raise; rw [setPort_scanStage]; rfl
  · split
    · unfold Machine.bindAperture Machine.raiseBindings; rw [updImage_scanStage]; rfl
    · unfold Machine.raise; rw [setPort_scanStage]; rfl

theorem readyClient (k : Kept h [] s) {c : ClientId} (ha : (s.client c).apertures = []) (hf : s.scanStage = .finished) :
    Kept h [] (readyClient c s) :=
  (k.bootBind ha).setPort (p := .client c) (u := { ((Machine.bootBind c s).client c).port with state := .ready })
    (fun _ => Or.inr ((scanStage_bootBind c).trans hf)) (fun e => by cases e)

theorem releasePortReset (k : Kept 0 [] s) {c : ClientId} (hp : (s.client c).port.state ≠ .ready → (s.client c).apertures = []) :
    Kept 0 [] (releasePortReset c s) := by
  unfold Machine.releasePortReset
  dsimp only
  split
  · exact k.setLine
  · split
    · rename_i hs
      have ha : ((Machine.setLine c false s).client c).apertures = [] := by
        unfold Machine.setLine
        rw [client_setClient_same]
        exact hp (by rw [hs]; simp)
      split
      · rename_i hf
        exact (k.setLine.readyClient ha hf).takesAll
      · exact k.setLine.setPort (fun e => by cases e) (fun e => by cases e)
    · exact k.setLine

/-! ### The scanner -/

theorem settingsRead (k : Kept 0 [] s) (hs : s.scanStage = .readingSettings) : Kept 0 [] (settingsRead s) := by
  have k1 : Kept 0 [] (refreshBoot (refreshRow s)) := by
    have hr := k.refresh (w := .protectBit 0)
    exact hr.refresh (w := .lockMark)
  have hs1 : (refreshBoot (refreshRow s)).scanStage = .readingSettings := hs
  have k2 : Kept 0 [] { refreshBoot (refreshRow s) with scanStage := .scanning, scanPosition := 0, nextIndex := 1 } := by
    have hi := k1.unread hs1
    have hc := k1.closed (by rw [hs1]; simp)
    refine { dirWf := k1.dirWf, sectorsWf := k1.sectorsWf, tablesWf := k1.tablesWf, names := k1.names, retiring := k1.retiring,
             counted := k1.counted, bound := k1.bound, inHand := k1.inHand, owners := k1.owners, jobs := ?_,
             service := k1.service, sequences := ?_, closed := ?_, unread := ?_, scanned := ?_ }
    · intro n j hn
      exact (held_iff rfl n j.work).mpr (k1.jobs n j hn)
    · intro b q hb
      exact (admitted rfl (fun _ => rfl) _).mpr (k1.sequences b q hb)
    · intro _
      refine ⟨fun p => ?_, hc.2⟩
      have := hc.1 p
      cases p <;> exact this
    · intro e; cases e
    · intro _
      refine ⟨fun i _ => hi i, fun i im h1 => ?_⟩
      have h2 := hi i
      have h1' : (refreshBoot (refreshRow s)).image i = some im := h1
      rw [h2] at h1'
      cases h1'
  unfold Machine.settingsRead beginScanSense
  refine k2.serve ?_ ?_
  · rw [mgmtWork_eq, mgmtWork_eq]
    dsimp only [Activity.mgmtWork]
    omega
  · intro q hq
    rcases hq with hq | hq
    · cases hq
    · exact Or.inr hq

/-- A bank becomes IDLE with no open line, or senses for the scan. -/
theorem scanBank (k : Kept h held s) {b : BankId} {a : Activity} {o : Option (Nat × Nat)}
    (ha : a = .idle ∨ ∃ n, a = .sensing (.scan n)) :
    Kept h held (s.setBank b { s.bank b with activity := a, openLine := o }) := by
  have h0 : a.mgmtWork = 0 ∧ a.sequence = none := by
    rcases ha with ha | ⟨n, ha⟩ <;> rw [ha] <;> exact ⟨rfl, rfl⟩
  refine k.serve ?_ ?_
  · rw [mgmtWork_eq, mgmtWork_eq]
    dsimp only
    omega
  · intro q hq
    rcases hq with hq | hq
    · have hq' : a.sequence = some q := hq
      rw [h0.2] at hq'
      cases hq'
    · exact Or.inr hq

/-- What a valid header gives. -/
theorem headerImage_spec {n : Nat} {line : List Byte} {im : Image} (hi : headerImage n line = some im) :
    im.first = n ∧ 1 ≤ im.count ∧ im.state ≠ .retiring ∧ im.bindings = 0 := by
  unfold headerImage at hi
  dsimp only at hi
  split at hi
  · cases hi
  · rw [Option.ite_none_right_eq_some, Option.some.injEq] at hi
    obtain ⟨hc, rfl⟩ := hi
    simp only [Bool.and_eq_true, decide_eq_true_eq] at hc
    refine ⟨hc.1.1.1.1.1.2, hc.1.1.1.1.2, ?_, rfl⟩
    dsimp only
    unfold markedState
    dsimp only
    split
    · simp
    · split
      · simp
      · split
        · simp
        · split <;> simp

theorem judge (k : Kept 0 [] s) {n : Nat} (hs : s.scanStage = .scanning) (hn : n = s.scanPosition) :
    Kept 0 [] (judge n s) := by
  subst hn
  obtain ⟨hnone, hbelow⟩ := k.scanned hs
  obtain ⟨hready, hserv⟩ := k.closed (by rw [hs]; simp)
  unfold Machine.judge
  split
  · rename_i im hi
    obtain ⟨h1, h2, h3, h4⟩ := headerImage_spec hi
    have hsc : (scannedImage s im).first = im.first ∧ (scannedImage s im).count = im.count
        ∧ (scannedImage s im).state ≠ .retiring ∧ (scannedImage s im).bindings = 0 := by
      unfold scannedImage
      split
      · exact ⟨rfl, rfl, by simp, h4⟩
      · exact ⟨rfl, rfl, h3, h4⟩
    have hc : createEntry s.nextIndex (scannedImage s im) s = createEntry s.nextIndex (scannedImage s im) s := rfl
    refine k.create (hnone _ (Nat.le_refl _)) ?_ hsc.2.2.1 hsc.2.2.2 ?_ ?_ (by rw [hs]; simp) (fun _ => ?_)
    · have := k.service
      rw [hserv] at this
      simp at this
      omega
    · intro name hnm j jm hj hjn
      unfold scannedImage at hnm ⊢
      split at hnm
      · cases hnm
      · rename_i hd
        rw [if_neg hd]
        intro e
        apply hd
        unfold duplicates
        rw [hnm]
        refine List.any_eq_true.mpr ⟨(j, jm), List.mem_filterMap.mpr ⟨(j, some jm), Table.mem_of_get hj, ?_⟩, by simpa using e⟩
        simp [hjn]
    · intro m hm1 hm2
      cases ho : (s.sector m).owner with
      | none => rfl
      | some i =>
        obtain ⟨jm, h5, h6, h7⟩ := (k.owners m i).mp ho
        have := hbelow i jm h5
        rw [hsc.1, h1] at hm1
        omega
    · rw [hsc.1, hsc.2.1, h1]
      omega
  · refine { dirWf := k.dirWf, sectorsWf := k.sectorsWf, tablesWf := k.tablesWf, names := k.names, retiring := k.retiring,
             counted := k.counted, bound := k.bound, inHand := k.inHand, owners := k.owners, jobs := ?_,
             service := k.service, sequences := ?_, closed := ?_, unread := ?_, scanned := ?_ }
    · intro n j hn
      exact (held_iff rfl n j.work).mpr (k.jobs n j hn)
    · intro b q hb
      exact (admitted rfl (fun _ => rfl) _).mpr (k.sequences b q hb)
    · intro _
      refine ⟨fun p => ?_, hserv⟩
      have := hready p
      cases p <;> exact this
    · exact k.unread
    · intro _
      refine ⟨hnone, fun i im h1 => ?_⟩
      have := hbelow i im h1
      show _ ≤ s.scanPosition + 1
      omega

/-- The scan ends. -/
theorem finish (k : Kept h held s) : Kept h held { s with scanStage := .finished } := by
  refine { dirWf := k.dirWf, sectorsWf := k.sectorsWf, tablesWf := k.tablesWf, names := k.names, retiring := k.retiring,
           counted := k.counted, bound := k.bound, inHand := k.inHand, owners := k.owners, jobs := ?_,
           service := k.service, sequences := ?_, closed := ?_, unread := ?_, scanned := ?_ }
  · intro n j hn
    exact (held_iff rfl n j.work).mpr (k.jobs n j hn)
  · intro b q hb
    exact (admitted rfl (fun _ => rfl) _).mpr (k.sequences b q hb)
  · intro e; exact absurd rfl e
  · intro e; cases e
  · intro e; cases e

/-- At the end of the scan the STARTING ports are boot-bound one after another. -/
theorem startClient (k : Kept h [] s) {c : ClientId} (ha : ∀ d, (s.client d).port.state = .starting → (s.client d).apertures = [])
    (hf : s.scanStage = .finished) : Kept h [] (startClient s c)
      ∧ (∀ d, ((startClient s c).client d).port.state = .starting → ((startClient s c).client d).apertures = [])
      ∧ (startClient s c).scanStage = .finished := by
  unfold Machine.startClient
  split
  · rename_i hs
    refine ⟨k.readyClient (ha c hs) hf, fun d hd => ?_, ?_⟩
    · by_cases he : d = c
      · subst he
        unfold Machine.readyClient at hd
        dsimp only at hd
        rw [client_setPort, if_pos rfl] at hd
        cases hd
      · have : (Machine.readyClient c s).client d = s.client d := by
          unfold Machine.readyClient
          dsimp only
          rw [client_setPort, if_neg]
          · exact client_bootBind he
          · intro e; cases e; exact he rfl
        rw [this] at hd ⊢
        exact ha d hd
    · unfold Machine.readyClient
      dsimp only
      rw [setPort_scanStage, scanStage_bootBind]
      exact hf
  · exact ⟨k, ha, hf⟩

theorem scanEnds (k : Kept h [] s) (ha : ∀ d, (s.client d).port.state = .starting → (s.client d).apertures = []) :
    Kept h [] (scanEnds s) := by
  obtain ⟨k1, a1, f1⟩ := k.finish.startClient (c := .zero) ha rfl
  obtain ⟨k2, a2, f2⟩ := k1.startClient (c := .one) a1 f1
  obtain ⟨k3, a3, f3⟩ := k2.startClient (c := .two) a2 f2
  obtain ⟨k4, a4, f4⟩ := k3.startClient (c := .three) a3 f3
  unfold Machine.scanEnds
  refine Kept.raise ?_
  show Kept h [] (startMgmt (Machine.startClient (Machine.startClient (Machine.startClient (Machine.startClient _ .zero) .one) .two) .three))
  unfold startMgmt
  split
  · exact k4.setPort (p := .mgmt) (fun _ => Or.inr f4) (fun _ => rfl)
  · exact k4

theorem scanSenseDone (k : Kept 0 [] s) {n : Nat} (hs : s.scanStage = .scanning) (hn : n = s.scanPosition)
    (ha : ∀ d, (s.client d).port.state = .starting → (s.client d).apertures = []) : Kept 0 [] (scanSenseDone n s) := by
  unfold Machine.scanSenseDone Machine.scanOn
  have k1 := (k.scanBank (b := bankOf n) (o := none) (Or.inl rfl)).judge (n := n) hs hn
  split
  · exact k1.scanBank (Or.inr ⟨_, rfl⟩)
  · refine (k1.scanEnds ?_).takesAll
    have hc : ∀ d, (Machine.judge n (s.setBank (bankOf n) { s.bank (bankOf n) with activity := .idle, openLine := none })).client d
        = s.client d := by
      intro d
      unfold Machine.judge
      split <;> rfl
    intro d hd
    rw [hc] at hd ⊢
    exact ha d hd

/-! ### Events -/

theorem senseDone (k : Kept 0 [] s) {b : BankId} (he : senseDone b s = some t) : Kept 0 [] t := by
  have hw : ∀ (l : Nat × Nat), workOf (s.bank b).waiting
      = ({ s.bank b with activity := .lineOpen, openLine := some l } : Bank).mgmtWork := by
    intro l
    rw [mgmtWork_eq]
    dsimp only [Activity.mgmtWork]
    omega
  have hq : ∀ (l : Nat × Nat) (q : ProgramSequence),
      ({ s.bank b with activity := .lineOpen, openLine := some l } : Bank).hasSequence q → (s.bank b).hasSequence q := by
    intro l q hq
    rcases hq with hq | hq
    · cases hq
    · exact Or.inr hq
  unfold Machine.senseDone at he
  split at he
  · rename_i a ha
    rw [← Option.some.inj he]
    refine Kept.completeRead (k.setBank ?_ fun q h1 => Or.inl (hq _ q h1))
    rw [← hw, mgmtWork_eq, ha]
    show _ ≤ (if a.ofMgmt then 1 else 0) + _ + 0
    omega
  · rename_i job sector line ha
    have k1 : Kept 0 [] (s.setBank b { s.bank b with activity := .lineOpen, openLine := some (sector, line) }) := by
      refine k.serve ?_ (hq _)
      rw [← hw, mgmtWork_eq]
      omega
    dsimp only at he
    split at he
    · rw [← Option.some.inj he]; exact k1.verifyReadDone
    · rw [← Option.some.inj he]; exact k1
  · cases he

theorem enterPhase (k : Kept h held s) {b : BankId} {q : ProgramSequence} {f g : ProgramPhase}
    (ha : (s.bank b).activity = .programming q f) : Kept h held (enterPhase b q g s) := by
  refine k.serve ?_ ?_
  · rw [mgmtWork_eq, mgmtWork_eq, ha]
    exact Nat.le_refl _
  · intro q' hq
    rcases hq with hq | hq
    · exact Or.inl (by rw [ha]; exact hq)
    · exact Or.inr hq

theorem blankCheckDone (k : Kept 0 [] s) {b : BankId} (he : blankCheckDone b s = some t) : Kept 0 [] t := by
  unfold Machine.blankCheckDone at he
  split at he
  · rename_i ha
    split at he
    · rw [← Option.some.inj he]; exact k.endProgram ha
    · split at he
      · rw [← Option.some.inj he]; exact k.endProgram ha
      · rw [← Option.some.inj he]; exact k.enterPhase ha
  · cases he

theorem programDone (k : Kept 0 [] s) {b : BankId} (he : programDone b s = some t) : Kept 0 [] t := by
  unfold Machine.programDone at he
  split at he
  · rename_i ha
    rw [← Option.some.inj he]; exact k.enterPhase ha
  · cases he

theorem programTimedOut (k : Kept 0 [] s) {b : BankId} (he : programTimedOut b s = some t) : Kept 0 [] t := by
  unfold Machine.programTimedOut at he
  split at he
  · rename_i ha
    rw [← Option.some.inj he]; exact k.flash.endProgram ha
  · cases he

theorem readBackDone (k : Kept 0 [] s) {b : BankId} {e : Bool} (he : readBackDone b e s = some t) : Kept 0 [] t := by
  unfold Machine.readBackDone at he
  split at he
  · rename_i ha
    split at he
    · rw [← Option.some.inj he]; exact k.flash.endProgram ha
    · rw [← Option.some.inj he]; exact k.flash.endProgram ha
  · cases he

theorem endErase (k : Kept h held s) {b : BankId} : Kept h held (endErase b s) := by
  refine Kept.releaseSlot (k.serve ?_ ?_)
  · rw [mgmtWork_eq, mgmtWork_eq]
    dsimp only [Activity.mgmtWork]
    omega
  · intro q hq
    rcases hq with hq | hq
    · cases hq
    · exact Or.inr hq

theorem eraseCompletes (k : Kept 0 [] s) {b : BankId} (he : eraseCompletes b s = some t) : Kept 0 [] t := by
  unfold Machine.eraseCompletes at he
  rw [Option.map_eq_some_iff] at he
  obtain ⟨e, _, rfl⟩ := he
  exact k.flash.endErase.eraseDone

theorem eraseTimesOut (k : Kept 0 [] s) {b : BankId} (he : eraseTimesOut b s = some t) : Kept 0 [] t := by
  unfold Machine.eraseTimesOut at he
  rw [Option.map_eq_some_iff] at he
  obtain ⟨e, _, rfl⟩ := he
  exact (Kept.updSector (f := fun r => { r with failed := true }) (Kept.endErase (b := b) (k.flash
    (m := scrambleN s.mem (lineAddress e.sector 0 0) Config.sectorBytes s.freeCount)
    (n := s.freeCount + Config.sectorBytes) (b := s.boot) (r := s.row))) fun _ => rfl).eraseDone

theorem suspendDone (k : Kept 0 [] s) {b : BankId} (he : suspendDone b s = some t) : Kept 0 [] t := by
  unfold Machine.suspendDone at he
  split at he
  · rw [← Option.some.inj he]
    refine Kept.releaseSlot (k.serve ?_ ?_)
    · rw [mgmtWork_eq, mgmtWork_eq]
      dsimp only [Activity.mgmtWork]
      omega
    · intro q hq
      rcases hq with hq | hq
      · cases hq
      · exact Or.inr hq
  · cases he

theorem lockoutExpires (k : Kept 0 [] s) {b : BankId} (he : lockoutExpires b s = some t) : Kept 0 [] t := by
  unfold Machine.lockoutExpires at he
  split at he
  · split at he
    · rw [← Option.some.inj he]
      exact k.serve (Nat.le_refl _) (fun _ hq => hq)
    · cases he
  · cases he

theorem runningOp_some {o : SettingsOp} (ho : runningOp s = some o) : s.op.isSome = true := by
  unfold runningOp at ho
  rw [Option.filter_eq_some_iff] at ho
  rw [ho.1]
  rfl

theorem storeEnds (k : Kept 0 [] s) {o : SettingsOp} (ho : runningOp s = some o) {st : Status} :
    Kept 0 [] (Machine.endSettings o.work st (programSettings o.work s))
    ∧ Kept 0 [] (Machine.endSettings o.work st (cutSettings o.work s))
    ∧ Kept 0 [] (Machine.endSettings o.work st (eraseSettings o.work s))
    ∧ Kept 0 [] (Machine.endSettings o.work st (scrambleSettings o.work s)) := by
  have hs := runningOp_some ho
  have k0 : ∀ {m r n}, Kept 0 [] { s with boot := m, row := r, freeCount := n } := k.flash
  refine ⟨?_, ?_, ?_, ?_⟩
  · unfold programSettings
    split <;> exact Kept.endSettings k0 hs
  · unfold cutSettings
    split <;> exact Kept.endSettings k0 hs
  · unfold eraseSettings
    split <;> exact Kept.endSettings k0 hs
  · unfold scrambleSettings
    split <;> exact Kept.endSettings k0 hs

theorem settingsProgramDone (k : Kept 0 [] s) {e : Bool} (he : settingsProgramDone e s = some t) : Kept 0 [] t := by
  unfold Machine.settingsProgramDone at he
  split at he
  · rename_i ho
    split at he
    · cases he
    · split at he
      · rw [← Option.some.inj he]; exact (k.storeEnds ho).1
      · rw [← Option.some.inj he]; exact (k.storeEnds ho).2.1
  · cases he

theorem settingsProgramTimedOut (k : Kept 0 [] s) (he : settingsProgramTimedOut s = some t) : Kept 0 [] t := by
  unfold Machine.settingsProgramTimedOut at he
  split at he
  · rename_i ho
    split at he
    · cases he
    · rw [← Option.some.inj he]; exact (k.storeEnds ho).2.1
  · cases he

theorem settingsEraseDone (k : Kept 0 [] s) (he : settingsEraseDone s = some t) : Kept 0 [] t := by
  unfold Machine.settingsEraseDone at he
  split at he
  · rename_i ho
    split at he
    · rw [← Option.some.inj he]; exact (k.storeEnds ho).2.2.1
    · cases he
  · cases he

theorem settingsEraseTimedOut (k : Kept 0 [] s) (he : settingsEraseTimedOut s = some t) : Kept 0 [] t := by
  unfold Machine.settingsEraseTimedOut at he
  split at he
  · rename_i ho
    split at he
    · rw [← Option.some.inj he]; exact (k.storeEnds ho).2.2.2
    · cases he
  · cases he

/-- An event, with what it makes due. -/
theorem concluded (k : Kept 0 [] s) {o : Option State} (ho : ∀ v, o = some v → Kept 0 [] v) : Kept 0 [] (concluded o s) := by
  cases o with
  | none => exact k
  | some v => exact (ho v rfl).conclude

/-- An event that may come. -/
theorem getD (k : Kept 0 [] s) {o : Option State} (ho : ∀ v, o = some v → Kept 0 [] v) : Kept 0 [] (o.getD s) := by
  cases o with
  | none => exact k
  | some v => exact ho v rfl

/-! ### Time -/

theorem later (k : Kept h held s) : Kept h held (later s) := by
  have hb : ∀ b, (Machine.later s).bank b = (s.bank b).later := fun b => Quad.get_map _ _ _
  have hl : ∀ b : Bank, b.later.activity.mgmtWork = b.activity.mgmtWork ∧ b.later.activity.sequence = b.activity.sequence
      ∧ b.later.waiting = b.waiting := by
    intro b
    unfold Bank.later
    split
    · rename_i he; rw [he]; exact ⟨rfl, rfl, rfl⟩
    · rename_i he; rw [he]; exact ⟨rfl, rfl, rfl⟩
    · rename_i he; rw [he]; exact ⟨rfl, rfl, rfl⟩
    · exact ⟨rfl, rfl, rfl⟩
  have hw : ∀ b : Bank, b.later.mgmtWork = b.mgmtWork := by
    intro b
    rw [mgmtWork_eq, mgmtWork_eq, (hl b).1, (hl b).2.2]
  refine k.congr rfl k.sectorsWf (fun _ => rfl) (fun _ => rfl) k.jobs ?_ ?_ (fun p hr => Or.inl (by cases p <;> exact hr)) rfl
  · have ho : (Machine.later s).op.isSome = s.op.isSome := by
      show (s.op.map SettingsOp.later).isSome = _
      cases s.op <;> rfl
    unfold mgmtWork
    simp only [hb, hw, ho]
  · intro b q hq
    rw [hb] at hq
    rcases hq with hq | ⟨c, hm⟩
    · exact Or.inl (by rw [← (hl _).2.1]; exact hq)
    · exact Or.inr ⟨c, by rw [← (hl _).2.2]; exact hm⟩

theorem bankLimit (k : Kept 0 [] s) {b : BankId} : Kept 0 [] (bankLimit s b) := by
  unfold Machine.bankLimit
  split
  · split
    · exact k.getD fun _ hv => k.programTimedOut hv
    · exact k
  · split
    · exact k.getD fun _ hv => k.eraseTimesOut hv
    · exact k
  · split
    · exact k.getD fun _ hv => k.eraseTimesOut hv
    · split
      · exact k.getD fun _ hv => k.suspendDone hv
      · exact k
  · exact k

theorem storeLimit (k : Kept 0 [] s) : Kept 0 [] (storeLimit s) := by
  unfold Machine.storeLimit
  split
  · split
    · split
      · exact k.getD fun _ hv => k.settingsEraseTimedOut hv
      · exact k
    · split
      · exact k.getD fun _ hv => k.settingsProgramTimedOut hv
      · exact k
  · exact k

theorem tick (k : Kept 0 [] s) : Kept 0 [] (tick s) := by
  unfold Machine.tick
  split
  · exact k
  · exact k.later.bankLimit.bankLimit.bankLimit.bankLimit.storeLimit.conclude

end Kept

end Sys2Proof.Machine
end

