-- ==== Sys2Proof/Laws/PerInstr.lean ====
section
/-! SUPPORT. The row of a request, per constructor: what its constructor carries, and the port it arrives at. -/

namespace Sys2Proof.Laws.Rows

open Sys2Proof.Machine

/-- The row of a request carries that request to a port that accepts its kind (R166), and is well-formed exactly when the
request's parameters fit their fields (R178); every other row carries no request. -/
def Statement (i : Instr) : Prop :=
  (∀ p tag r, requestOf i = some (p, tag, r) → accepts p r.code = true ∧ i.carried = .request r ∧ i.wf = r.wf)
  ∧ (requestOf i = none → ∀ r, i.carried ≠ .request r)

/-- A row that is no request. -/
theorem of_none {i : Instr} (h : requestOf i = none) (hc : ∀ r, i.carried ≠ .request r) : Statement i :=
  ⟨fun _ _ _ e => by simp [h] at e, fun _ => hc⟩

/-- A row that is a request. -/
theorem of_some {i : Instr} {p : Port} {tag : Byte} {r : Request} (h : requestOf i = some (p, tag, r))
    (ha : accepts p r.code = true) (hc : i.carried = .request r) (hw : i.wf = r.wf) : Statement i := by
  refine ⟨fun _ _ _ e => ?_, fun e => by simp [h] at e⟩
  rw [h] at e
  cases e
  exact ⟨ha, hc, hw⟩

theorem powerOn : Statement .powerOn := of_none rfl (by intro r e; cases e)
theorem resetAsserted : Statement .resetAsserted := of_none rfl (by intro r e; cases e)
theorem resetReleased : Statement .resetReleased := of_none rfl (by intro r e; cases e)
theorem portResetAsserted (c : ClientId) : Statement (.portResetAsserted c) := of_none rfl (by intro r e; cases e)
theorem portResetReleased (c : ClientId) : Statement (.portResetReleased c) := of_none rfl (by intro r e; cases e)
theorem wpChange (high : Bool) : Statement (.wpChange high) := of_none rfl (by intro r e; cases e)
theorem requestFrameArrival (p : Port) (bytes : List Byte) :
    Statement (.requestFrameArrival p bytes) :=
  of_none rfl (by intro r e; cases e)
theorem responseFrameSent (p : Port) : Statement (.responseFrameSent p) := of_none rfl (by intro r e; cases e)
theorem identify (p : Port) (tag : Byte) : Statement (.identify p tag) := of_some rfl (by cases p <;> rfl) rfl rfl
theorem poll (p : Port) (tag : Byte) : Statement (.poll p tag) := of_some rfl (by cases p <;> rfl) rfl rfl
theorem entry (tag : Byte) (index : Nat) : Statement (.entry tag index) := of_some rfl rfl rfl rfl
theorem find (tag : Byte) (name : Word32) : Statement (.find tag name) := of_some rfl rfl rfl rfl
theorem sector (tag : Byte) (sector : Nat) : Statement (.sector tag sector) := of_some rfl rfl rfl rfl
theorem jobs (tag : Byte) : Statement (.jobs tag) := of_some rfl rfl rfl rfl
theorem openImage (tag : Byte) (name : Word32) (first count kind level : Nat) :
    Statement (.openImage tag name first count kind level) :=
  of_some rfl rfl rfl rfl
theorem write (tag : Byte) (index offset : Nat) (data : List Byte) :
    Statement (.write tag index offset data) :=
  of_some rfl rfl rfl rfl
theorem publish (tag : Byte) (index length : Nat) (crc : Word32) :
    Statement (.publish tag index length crc) :=
  of_some rfl rfl rfl rfl
theorem abandon (tag : Byte) (job : Nat) : Statement (.abandon tag job) := of_some rfl rfl rfl rfl
theorem retire (tag : Byte) (index : Nat) : Statement (.retire tag index) := of_some rfl rfl rfl rfl
theorem revoke (tag : Byte) (index : Nat) : Statement (.revoke tag index) := of_some rfl rfl rfl rfl
theorem discard (tag : Byte) (index : Nat) : Statement (.discard tag index) := of_some rfl rfl rfl rfl
theorem erase (tag : Byte) (sector : Nat) : Statement (.erase tag sector) := of_some rfl rfl rfl rfl
theorem clearAccessed (tag : Byte) (index : Nat) : Statement (.clearAccessed tag index) := of_some rfl rfl rfl rfl
theorem read (tag : Byte) (index offset length : Nat) :
    Statement (.read tag index offset length) :=
  of_some rfl rfl rfl rfl
theorem readRaw (tag : Byte) (sector line first length : Nat) :
    Statement (.readRaw tag sector line first length) :=
  of_some rfl rfl rfl rfl
theorem setLevel (tag : Byte) (port level : Nat) : Statement (.setLevel tag port level) := of_some rfl rfl rfl rfl
theorem protect (tag : Byte) (group : Nat) : Statement (.protect tag group) := of_some rfl rfl rfl rfl
theorem unprotectAll (tag : Byte) : Statement (.unprotectAll tag) := of_some rfl rfl rfl rfl
theorem bootSet (tag : Byte) (port : Nat) (primary fallback : Word32) (level : Nat) :
    Statement (.bootSet tag port primary fallback level) :=
  of_some rfl rfl rfl rfl
theorem bootClear (tag : Byte) : Statement (.bootClear tag) := of_some rfl rfl rfl rfl
theorem bootLock (tag : Byte) : Statement (.bootLock tag) := of_some rfl rfl rfl rfl
theorem bind (c : ClientId) (tag : Byte) (aperture : Nat) (name : Word32) (generation : Nat) :
    Statement (.bind c tag aperture name generation) :=
  of_some rfl rfl rfl rfl
theorem unbind (c : ClientId) (tag : Byte) (aperture : Nat) :
    Statement (.unbind c tag aperture) :=
  of_some rfl rfl rfl rfl
theorem describe (c : ClientId) (tag : Byte) (aperture : Nat) :
    Statement (.describe c tag aperture) :=
  of_some rfl rfl rfl rfl
theorem fetch (c : ClientId) (tag : Byte) (aperture offset length access : Nat) :
    Statement (.fetch c tag aperture offset length access) :=
  of_some rfl rfl rfl rfl
theorem senseCompletion (b : BankId) : Statement (.senseCompletion b) := of_none rfl (by intro r e; cases e)
theorem blankCheckCompletion (b : BankId) : Statement (.blankCheckCompletion b) := of_none rfl (by intro r e; cases e)
theorem programCompletion (b : BankId) : Statement (.programCompletion b) := of_none rfl (by intro r e; cases e)
theorem programTimeout (b : BankId) : Statement (.programTimeout b) := of_none rfl (by intro r e; cases e)
theorem readBackCompletion (b : BankId) (equal : Bool) :
    Statement (.readBackCompletion b equal) :=
  of_none rfl (by intro r e; cases e)
theorem eraseCompletion (b : BankId) : Statement (.eraseCompletion b) := of_none rfl (by intro r e; cases e)
theorem eraseTimeout (b : BankId) : Statement (.eraseTimeout b) := of_none rfl (by intro r e; cases e)
theorem suspendCompletion (b : BankId) : Statement (.suspendCompletion b) := of_none rfl (by intro r e; cases e)
theorem lockoutExpiry (b : BankId) : Statement (.lockoutExpiry b) := of_none rfl (by intro r e; cases e)
theorem settingsReadCompletion : Statement .settingsReadCompletion := of_none rfl (by intro r e; cases e)
theorem scanSenseCompletion : Statement .scanSenseCompletion := of_none rfl (by intro r e; cases e)
theorem settingsProgramCompletion (equal : Bool) :
    Statement (.settingsProgramCompletion equal) :=
  of_none rfl (by intro r e; cases e)
theorem settingsProgramTimeout : Statement .settingsProgramTimeout := of_none rfl (by intro r e; cases e)
theorem settingsEraseCompletion : Statement .settingsEraseCompletion := of_none rfl (by intro r e; cases e)
theorem settingsEraseTimeout : Statement .settingsEraseTimeout := of_none rfl (by intro r e; cases e)

end Sys2Proof.Laws.Rows
end

