-- ==== Sys2Proof/Laws/Requests.lean ====
section
/-! SUPPORT. Said once: what the arrival of a request at a port that attends comes to, and what a response of the request in
service does. -/

namespace Sys2Proof.Machine

variable {s t : State}

/-- At a port that attends, a request is taken at its arrival. -/
theorem arrive_attends {p : Port} (h : s.Attends p) (tag : Byte) (r : Request) :
    arrive p tag r s = takeRequest p r (serving p tag r s) := by
  have h0 : ignores p s = false := by simp [ignores, h.held, h.ready]
  have h1 : (s.port p).state ≠ .starting := by simp [h.ready]
  have hc : ({ s.port p with queue := [] ++ [(tag, r)] } : PortUnit).canTake = true := by
    simp [PortUnit.canTake, h.ready, h.service, h.mark, h.room, Config.linkDepth]
  unfold arrive
  rw [h0]
  simp only [Bool.false_eq_true, if_false, h1]
  unfold enqueue
  simp only [h.queue, List.length_nil, Config.queueDepth, Nat.zero_lt_succ, if_true]
  simp only [takesAt, port_setPort_same, List.nil_append, List.length_singleton]
  rw [List.nil_append] at hc
  simp only [takeN, port_setPort_same, hc, if_true, takeHead, setPort_setPort]
  rfl

/-- The response of a request that is in service at a port that attended. -/
theorem respond_serving {p : Port} {u : PortUnit} {tag : Byte} {r : Request}
    (h : t.port p = { u with queue := [(tag, r)], inService := true }) (hq : u.queue = []) (hs : u.inService = false)
    (st : Status) (results : List Byte) :
    respond p st results t = t.setPort p (u.place { kind := r.code, tag, status := st, results }) := by
  obtain ⟨a, q, i, c, m, e, n⟩ := u
  simp only at hq hs
  subst hq; subst hs
  simp only [respond, PortUnit.respond, h]

/-- A refusal at the take at a port that attends: the response alone. -/
theorem respond_attends {p : Port} (h : s.Attends p) (tag : Byte) (r : Request) (st : Status) (results : List Byte) :
    respond p st results (serving p tag r s) = answered p tag r st results s := by
  rw [respond_serving (u := s.port p) (tag := tag) (r := r) (by simp [serving]) h.queue h.service]
  simp [answered, serving]

@[simp] theorem serving_image (p : Port) (tag : Byte) (r : Request) (i : Nat) :
    (serving p tag r s).image i = s.image i := by cases p <;> rfl

@[simp] theorem serving_bank (p : Port) (tag : Byte) (r : Request) (b : BankId) :
    (serving p tag r s).bank b = s.bank b := by cases p <;> rfl

@[simp] theorem serving_port (p : Port) (tag : Byte) (r : Request) :
    (serving p tag r s).port p = { s.port p with queue := [(tag, r)], inService := true } := by simp [serving]

/-- A client unit while one of the ports serves keeps everything but its port record. -/
theorem serving_client (p : Port) (tag : Byte) (r : Request) (c : ClientId) :
    ∃ u, (serving p tag r s).client c = { s.client c with port := u } := by
  unfold serving
  rw [client_setPort]
  split
  · exact ⟨_, rfl⟩
  · exact ⟨(s.client c).port, rfl⟩

@[simp] theorem serving_level (p : Port) (tag : Byte) (r : Request) (c : ClientId) :
    ((serving p tag r s).client c).level = (s.client c).level := by
  obtain ⟨u, h⟩ := serving_client (s := s) p tag r c; rw [h]

@[simp] theorem serving_apertures (p : Port) (tag : Byte) (r : Request) (c : ClientId) :
    ((serving p tag r s).client c).apertures = (s.client c).apertures := by
  obtain ⟨u, h⟩ := serving_client (s := s) p tag r c; rw [h]

@[simp] theorem serving_aperture (p : Port) (tag : Byte) (r : Request) (c : ClientId) (ap : Nat) :
    (serving p tag r s).aperture c ap = s.aperture c ap := by simp [State.aperture]

end Sys2Proof.Machine
end

