-- ==== Sys2Proof/Laws/SettingsStore.lean ====
section
/-! SUPPORT. What a failed, timed-out or cut operation of the settings store may have changed: the row, the boot area and the
count of free values, and of the first two only what the operation works on. -/

namespace Sys2Proof.Machine

theorem getLsbD_setRowBit (row : BitVec 64) (g h : Nat) (v : Bool) :
    (setRowBit row g v).getLsbD h = if h = g ∧ g < 64 then v else row.getLsbD h := by
  have out : ¬ h < 64 → row.getLsbD h = false := fun hl => BitVec.getLsbD_of_ge row h (Nat.le_of_not_lt hl)
  unfold setRowBit
  cases v
  · by_cases hg : h = g
    · subst hg
      by_cases hl : h < 64 <;> simp [hl, out]
    · have : ¬ g = h := fun e => hg e.symm
      by_cases hl : h < 64 <;> simp [hg, this, hl, out]
  · by_cases hg : h = g
    · subst hg
      by_cases hl : h < 64 <;> simp [hl]
    · have : ¬ g = h := fun e => hg e.symm
      simp [hg, this]

theorem cutSettings_eq (w : SettingsWork) (s : State) :
    ∃ row boot n, cutSettings w s = { s with row := row, boot := boot, freeCount := n } := by
  cases w <;> exact ⟨_, _, _, rfl⟩

theorem scrambleSettings_eq (w : SettingsWork) (s : State) :
    ∃ row boot n, scrambleSettings w s = { s with row := row, boot := boot, freeCount := n } := by
  cases w <;> exact ⟨_, _, _, rfl⟩

/-- A cut or failed program operation leaves what it does not work on. -/
theorem spares_cutSettings (w : SettingsWork) (s : State) : w.Spares s (cutSettings w s) := by
  have bytes : ∀ (a : Nat) (vs : List Byte) (x : Nat), ¬ (a ≤ x ∧ x < a + vs.length) →
      Memory.read (Memory.writeN s.boot a (cutBytes s.boot a s.freeCount vs)) x = Memory.read s.boot x := by
    intro a vs x hx
    exact Memory.read_writeN_outside _ _ _ _ (by rw [length_cutBytes]; omega)
  cases w with
  | protectBit g =>
    refine ⟨fun h hh => ?_, fun _ _ => rfl, fun _ h hh => ?_⟩
    · have hg : h ≠ g := by simpa [SettingsWork.rowBit] using hh
      exact (getLsbD_setRowBit _ _ _ _).trans (if_neg fun e => hg e.1)
    · refine (getLsbD_setRowBit _ _ _ _).trans ?_
      split
      · rename_i e; rw [← e.1, hh]; rfl
      · exact hh
  | eraseRow => exact ⟨fun _ _ => rfl, fun _ _ => rfl, fun _ _ hh => hh⟩
  | eraseBoot => exact ⟨fun _ _ => rfl, fun _ _ => rfl, fun _ _ hh => hh⟩
  | bootEntry c values =>
    refine ⟨fun _ _ => rfl, fun x hx => bytes _ _ x fun e => ?_, fun _ _ hh => hh⟩
    have e : 16 * c.pos ≤ x ∧ x < 16 * c.pos + values.length := e
    simp [SettingsWork.bootByte, e.1, e.2] at hx
  | lockMark =>
    refine ⟨fun _ _ => rfl, fun x hx => bytes 64 [0x00] x fun e => ?_, fun _ _ hh => hh⟩
    simp only [SettingsWork.bootByte, beq_eq_false_iff_ne] at hx
    simp only [List.length_singleton] at e
    omega

/-- A timed-out or cut erase operation leaves what is not of its unit. -/
theorem spares_scrambleSettings (w : SettingsWork) (s : State) : w.Spares s (scrambleSettings w s) := by
  cases w with
  | eraseRow => exact ⟨nofun, fun _ _ => rfl, fun h => absurd rfl h⟩
  | eraseBoot =>
    refine ⟨fun _ _ => rfl, fun x hx => ?_, fun _ _ hh => hh⟩
    have hx : 128 ≤ x := by simpa [SettingsWork.bootByte] using hx
    exact read_scrambleN_outside _ _ _ _ _ (Or.inr hx)
  | protectBit g => exact ⟨fun _ _ => rfl, fun _ _ => rfl, fun _ _ hh => hh⟩
  | bootEntry c values => exact ⟨fun _ _ => rfl, fun _ _ => rfl, fun _ _ hh => hh⟩
  | lockMark => exact ⟨fun _ _ => rfl, fun _ _ => rfl, fun _ _ hh => hh⟩

end Sys2Proof.Machine
end

