-- ==== Sys2Proof/Laws/Settle.lean ====
section
/-! SUPPORT. Said once: when nothing is due, settling does nothing; and whether something is due at a bank depends on the
banks, the arbiter and the settings-store operation alone. -/

namespace Sys2Proof.Machine

variable {s t : State}

/-- Settling does nothing when nothing is due. -/
theorem settleN_none (h : due s = none) (n : Nat) : settleN n s = s := by
  cases n with
  | zero => rfl
  | succ n => simp only [settleN, h]

/-- One thing that is due is done, and settling goes on. -/
theorem settleN_some (h : due s = some t) (n : Nat) : settleN (n + 1) s = settleN n t := by simp only [settleN, h]

/-- Nothing is due exactly when nothing is due at any unit. -/
theorem due_eq_none : due s = none ↔ (∀ b, start s b = none) ∧ settingsStart s = none ∧ grantSlot s = none
    ∧ (∀ b, lodgeResume s b = none) ∧ (∀ b, grant s b = none) ∧ (∀ b, beginSuspend s b = none)
    ∧ ∀ b, lodgeAccess s b = none := by
  have hall : ∀ f : BankId → Option State, Four.all.findSome? f = none ↔ ∀ b, f b = none := by
    intro f
    rw [List.findSome?_eq_none_iff]
    exact ⟨fun h b => h b (by cases b <;> simp [Four.all]), fun h b _ => h b⟩
  simp only [due, Option.or_eq_none_iff, hall]

/-- Whether a bank starts depends on its record and its slot. -/
theorem start_eq_none {b : BankId} : start s b = none ↔
    ¬ ((s.bank b).isFree = true ∧ s.holdsSlot (.bank b) = true
      ∧ (((s.bank b).claim = .resume ∧ ∃ e, (s.bank b).erase = some e ∧ e.suspended = true)
        ∨ ((s.bank b).claim = .access ∧ (s.bank b).erase = none ∧ (s.bank b).waiting.any Access.isSupplyBound = true))) := by
  unfold start
  dsimp only
  by_cases hf : (s.bank b).isFree = true ∧ s.holdsSlot (.bank b) = true
  · simp only [hf.1, hf.2, Bool.and_self, Bool.not_true, Bool.false_eq_true, if_false, true_and]
    cases hc : (s.bank b).claim <;> cases he : (s.bank b).erase with
    | none =>
      simp only [reduceCtorEq, false_and, or_self, not_false_eq_true, true_and, false_or, or_false]
      try (
        cases hw : (s.bank b).waiting.find? Access.isSupplyBound with
        | none =>
          have : (s.bank b).waiting.any Access.isSupplyBound = false := by
            rw [List.any_eq_false]; intro a ha; simpa using List.find?_eq_none.mp hw a ha
          simp [this]
        | some a =>
          have h1 := List.find?_some hw
          have h2 : (s.bank b).waiting.any Access.isSupplyBound = true :=
            List.any_eq_true.mpr ⟨a, List.mem_of_find?_eq_some hw, h1⟩
          cases a with
          | read a => simp [Access.isSupplyBound] at h1
          | media m c => cases m <;> simp_all [Access.isSupplyBound])
    | some e => simp
  · have : ((s.bank b).isFree && s.holdsSlot (.bank b)) = false := by
      rw [← Bool.not_eq_true, Bool.and_eq_true]; exact hf
    simp only [this, Bool.not_false, if_true, true_iff]
    exact fun h => hf ⟨h.1, h.2.1⟩

/-- The slot of a grant: a claim waits and a slot is free. -/
theorem grantSlot_eq_none : grantSlot s = none ↔ s.claims = [] ∨ s.slotFree = false := by
  unfold grantSlot State.slotFree
  cases s.claims with
  | nil => simp
  | cons c l => cases s.slotA <;> cases s.slotB <;> simp

/-- The settings store starts when its operation waits and it holds a slot. -/
theorem settingsStart_eq_none :
    settingsStart s = none ↔ ∀ o, s.op = some o → o.running = false → s.holdsSlot .settings = false := by
  unfold settingsStart
  cases s.op with
  | none => simp
  | some o => cases ho : o.running <;> cases hs : s.holdsSlot .settings <;> simp [ho]

theorem lodgeResume_eq_none {b : BankId} : lodgeResume s b = none ↔ ∀ e, (s.bank b).erase = some e →
    (e.suspended && (s.bank b).isFree && (s.bank b).claim == .none
      && (e.served || !(s.bank b).waiting.any Access.isRead)) = false := by
  unfold lodgeResume
  dsimp only
  cases (s.bank b).erase with
  | none => simp
  | some e => simp

theorem beginSuspend_eq_none {b : BankId} : beginSuspend s b = none ↔ ∀ e, (s.bank b).activity = .erasing →
    (s.bank b).erase = some e → (decide (e.lockout = 0) && (s.bank b).waiting.any Access.isRead) = false := by
  unfold beginSuspend
  dsimp only
  cases (s.bank b).activity <;> cases (s.bank b).erase <;> simp

theorem lodgeAccess_eq_none {b : BankId} : lodgeAccess s b = none ↔
    ((s.bank b).claim == .none && !s.holdsSlot (.bank b) && (s.bank b).erase.isNone
      && (s.bank b).waiting.any Access.isSupplyBound) = false := by
  unfold lodgeAccess
  dsimp only
  split <;> simp_all

theorem grantReadOf_eq_none {b : BankId} : grantReadOf b s = none ↔ (s.bank b).waiting.any Access.isRead = false := by
  unfold grantReadOf
  cases hw : (s.bank b).waiting.find? Access.isRead with
  | none =>
    have : (s.bank b).waiting.any Access.isRead = false := by
      rw [List.any_eq_false]; intro a ha; simpa using List.find?_eq_none.mp hw a ha
    simp [this]
  | some a =>
    have h1 := List.find?_some hw
    have h2 : (s.bank b).waiting.any Access.isRead = true :=
      List.any_eq_true.mpr ⟨a, List.mem_of_find?_eq_some hw, h1⟩
    cases a with
    | read a => simp [h2]
    | media m c => simp [Access.isRead] at h1

theorem grantVerifyOf_eq_none {b : BankId} {sel : Access → Bool} (hsel : ∀ a, sel a = true → a.isVerify = true) :
    grantVerifyOf b sel s = none ↔ (s.bank b).waiting.any sel = false := by
  unfold grantVerifyOf
  cases hw : (s.bank b).waiting.find? sel with
  | none =>
    have : (s.bank b).waiting.any sel = false := by
      rw [List.any_eq_false]; intro a ha; simpa using List.find?_eq_none.mp hw a ha
    simp [this]
  | some a =>
    have h1 := List.find?_some hw
    have h2 : (s.bank b).waiting.any sel = true := List.any_eq_true.mpr ⟨a, List.mem_of_find?_eq_some hw, h1⟩
    have h3 := hsel a h1
    cases a with
    | read a => simp [Access.isVerify] at h3
    | media m c => cases m <;> simp_all [Access.isVerify]

/-- When a bank grants nothing. -/
theorem grant_eq_none {b : BankId} : grant s b = none ↔
    (s.bank b).isFree = false
    ∨ ((s.bank b).erase.isSome = true ∧ (s.bank b).waiting.any Access.isRead = false)
    ∨ ((s.bank b).erase.isSome = false ∧ (s.bank b).waiting.any Access.isDueVerify = false
      ∧ (((s.bank b).waiting.any Access.isDueSupplyBound = true ∧ s.holdsSlot (.bank b) = false)
        ∨ ((s.bank b).waiting.any Access.isRead = false ∧ (s.bank b).waiting.any Access.isVerify = false))) := by
  have hv : ∀ a : Access, Access.isDueVerify a = true → a.isVerify = true := by
    intro a h; simp only [Access.isDueVerify, Bool.and_eq_true] at h; exact h.1
  unfold grant
  dsimp only
  cases hf : (s.bank b).isFree
  · simp
  · cases he : (s.bank b).erase.isSome
    · cases hd : (s.bank b).waiting.any Access.isDueVerify
      · cases hx : (s.bank b).waiting.any Access.isDueSupplyBound <;> cases hh : s.holdsSlot (.bank b) <;>
          cases hr : (s.bank b).waiting.any Access.isRead <;>
          simp [grantReadOf_eq_none, grantVerifyOf_eq_none (s := s) (b := b) (sel := Access.isVerify) (fun _ h => h), hr]
      · simp [grantVerifyOf_eq_none hv, hd]
    · simp [grantReadOf_eq_none]

/-- Whether anything is due depends on the banks, the arbiter and the settings-store operation alone. -/
theorem due_congr (hb : t.banks = s.banks) (hA : t.slotA = s.slotA) (hB : t.slotB = s.slotB) (hc : t.claims = s.claims)
    (ho : t.op = s.op) : due t = none ↔ due s = none := by
  have h1 : ∀ b, t.bank b = s.bank b := fun b => by simp only [State.bank, hb]
  have h2 : ∀ c, t.holdsSlot c = s.holdsSlot c := fun c => by simp only [State.holdsSlot, hA, hB]
  have h3 : t.slotFree = s.slotFree := by simp only [State.slotFree, hA, hB]
  simp only [due_eq_none, start_eq_none, settingsStart_eq_none, grantSlot_eq_none, lodgeResume_eq_none, grant_eq_none,
    beginSuspend_eq_none, lodgeAccess_eq_none, h1, h2, h3, hc, ho]

/-- A port's record does not decide what is due. -/
theorem due_serving (p : Port) (tag : Byte) (r : Request) : due (serving p tag r s) = none ↔ due s = none := by
  cases p <;> exact due_congr rfl rfl rfl rfl rfl

/-- When nothing is due and a slot is free, no claim waits. -/
theorem claims_of_due (h : due s = none) (hf : s.slotFree = true) : s.claims = [] := by
  rcases grantSlot_eq_none.mp (due_eq_none.mp h).2.2.1 with h | h
  · exact h
  · rw [hf] at h; cases h

/-- The search among the banks when only one can answer. -/
theorem findSome_only {f : BankId → Option State} (b : BankId) (h : ∀ b', b' ≠ b → f b' = none) :
    Four.all.findSome? f = f b := by
  cases hb : f b with
  | none =>
    rw [List.findSome?_eq_none_iff]
    intro b' _
    by_cases e : b' = b
    · rw [e, hb]
    · exact h b' e
  | some u =>
    cases b <;> simp only [Four.all, List.findSome?, hb]
    all_goals (rw [h .zero (by decide)]; try dsimp only)
    all_goals (rw [h .one (by decide)]; try dsimp only)
    all_goals (rw [h .two (by decide)])

/-- Where nothing was due and only one bank's record and slot have changed, only that bank, or a claim, can be due. -/
theorem due_of_bank (b : BankId) (hs : due s = none) (hb : ∀ b', b' ≠ b → t.bank b' = s.bank b')
    (hh : ∀ c, c ≠ .bank b → t.holdsSlot c = s.holdsSlot c) (ho : t.op = s.op) :
    due t = (start t b).or ((grantSlot t).or ((lodgeResume t b).or ((grant t b).or
      ((beginSuspend t b).or (lodgeAccess t b))))) := by
  obtain ⟨n1, n2, _, n4, n5, n6, n7⟩ := due_eq_none.mp hs
  have hc : ∀ b', b' ≠ b → Claimant.bank b' ≠ .bank b := fun b' h e => h (Claimant.bank.inj e)
  have d1 : ∀ b', b' ≠ b → start t b' = none := fun b' h => by
    have := n1 b'; rw [start_eq_none] at this ⊢; rw [hb _ h, hh _ (hc _ h)]; exact this
  have d2 : settingsStart t = none := by
    rw [settingsStart_eq_none] at n2 ⊢; rw [ho, hh _ (by simp)]; exact n2
  have d4 : ∀ b', b' ≠ b → lodgeResume t b' = none := fun b' h => by
    have := n4 b'; rw [lodgeResume_eq_none] at this ⊢; rw [hb _ h]; exact this
  have d5 : ∀ b', b' ≠ b → grant t b' = none := fun b' h => by
    have := n5 b'; rw [grant_eq_none] at this ⊢; rw [hb _ h, hh _ (hc _ h)]; exact this
  have d6 : ∀ b', b' ≠ b → beginSuspend t b' = none := fun b' h => by
    have := n6 b'; rw [beginSuspend_eq_none] at this ⊢; rw [hb _ h]; exact this
  have d7 : ∀ b', b' ≠ b → lodgeAccess t b' = none := fun b' h => by
    have := n7 b'; rw [lodgeAccess_eq_none] at this ⊢; rw [hb _ h, hh _ (hc _ h)]; exact this
  simp only [due, findSome_only b d1, d2, findSome_only b d4, findSome_only b d5, findSome_only b d6, findSome_only b d7,
    Option.none_or]

/-- Settling when one thing is due and nothing after it. -/
theorem settle_one {u : State} (h : due s = some t) (hn : due t = none) (he : t = u) : settle s = u := by
  subst he
  rw [settle, show settleLimit = 999 + 1 from rfl, settleN_some h, settleN_none hn]

/-! ## Giving a slot -/

@[simp] theorem giveSlot_bank (c : Claimant) (b : BankId) : (giveSlot c s).bank b = s.bank b := rfl
@[simp] theorem giveSlot_claims (c : Claimant) : (giveSlot c s).claims = s.claims := rfl
@[simp] theorem giveSlot_op (c : Claimant) : (giveSlot c s).op = s.op := rfl
@[simp] theorem giveSlot_isProtected (c : Claimant) (n : Nat) : (giveSlot c s).isProtected n = s.isProtected n := rfl
theorem giveSlot_setBank (c : Claimant) (b : BankId) (k : Bank) :
    (giveSlot c s).setBank b k = giveSlot c (s.setBank b k) := rfl

/-- Where a slot is free and the first is not, the second is. -/
theorem slotB_of_slotFree (hf : s.slotFree = true) (hA : s.slotA ≠ none) : s.slotB = none := by
  unfold State.slotFree at hf
  cases h : s.slotA
  · exact absurd h hA
  · simpa [h] using hf

/-- The claimant given a slot holds one. -/
theorem holdsSlot_giveSlot_same (c : Claimant) : (giveSlot c s).holdsSlot c = true := by
  by_cases hA : s.slotA = none <;> simp [giveSlot, State.holdsSlot, hA]

/-- Another claimant holds what it held. -/
theorem holdsSlot_giveSlot_ne {c d : Claimant} (h : d ≠ c) (hf : s.slotFree = true) :
    (giveSlot c s).holdsSlot d = s.holdsSlot d := by
  by_cases hA : s.slotA = none
  · simp [giveSlot, State.holdsSlot, hA, Ne.symm h]
  · simp [giveSlot, State.holdsSlot, hA, slotB_of_slotFree hf hA, Ne.symm h]

/-- The one claim of the list is granted a free slot. -/
theorem grantSlot_single (c : Claimant) (hf : s.slotFree = true) (hc : s.claims = []) :
    grantSlot (lodge c s) = some (giveSlot c s) := by
  obtain ⟨_, _, _, _, _, _, _, _, _, slotA, slotB, claims, _, _, _, _, _, _, _, _, _, _, _⟩ := s
  simp only at hc
  subst hc
  cases slotA with
  | none => rfl
  | some a =>
    cases slotB with
    | none => rfl
    | some b => exact absurd hf (by simp [State.slotFree])

end Sys2Proof.Machine
end

