-- ==== Sys2Proof/Laws/Takes.lean ====
section
/-! SUPPORT. How taking ends: every take uses up one request that could be taken, so that the takes of a port, and of all ports,
leave none that can be taken, and a take more may be made first. -/

namespace Sys2Proof.Machine

/-- How many requests a port may still take: those queued, without the one in service. -/
def PortUnit.takable (u : PortUnit) : Nat := u.queue.length - (if u.inService then 1 else 0)

/-- A port that can take has a request to take, and none in service. -/
theorem takable_of_canTake {u : PortUnit} (h : u.canTake = true) :
    u.takable = u.queue.length ∧ u.queue ≠ [] ∧ u.inService = false := by
  simp only [PortUnit.canTake, Bool.and_eq_true, Bool.not_eq_true', List.isEmpty_eq_false_iff] at h
  obtain ⟨⟨⟨⟨_, h2⟩, h3⟩, _⟩, _⟩ := h
  exact ⟨by simp [PortUnit.takable, h3], h2, h3⟩

theorem takable_place (u : PortUnit) (r : Response) : (u.place r).takable = u.takable := by
  unfold PortUnit.place PortUnit.takable; split <;> rfl

theorem takable_respond (u : PortUnit) (st : Status) (rs : List Byte) : (u.respond st rs).takable ≤ u.takable := by
  unfold PortUnit.respond
  split
  · rename_i h1 h2
    rw [takable_place]
    simp [PortUnit.takable, h1, h2]
  · exact Nat.le_refl _

/-- Setting a port to take no more leaves no port to take more. -/
theorem takable_setPort {s : State} {p : Port} {u : PortUnit} (hu : u.takable ≤ (s.port p).takable) {q : Port} :
    ((s.setPort p u).port q).takable ≤ (s.port q).takable := by
  rw [port_setPort]
  split
  · rename_i h; rw [h]; exact hu
  · exact Nat.le_refl _

/-- A change of the client units that leaves their queues leaves the ports as many to take. -/
theorem takable_clients {s t : State} (hm : t.mgmt = s.mgmt)
    (hc : ∀ c, (t.client c).port.queue = (s.client c).port.queue ∧ (t.client c).port.inService = (s.client c).port.inService)
    {q : Port} : (t.port q).takable ≤ (s.port q).takable := by
  cases q with
  | mgmt => show t.mgmt.takable ≤ s.mgmt.takable; rw [hm]
  | client c =>
    show (t.client c).port.takable ≤ (s.client c).port.takable
    unfold PortUnit.takable
    rw [(hc c).1, (hc c).2]

/-- No elementary change gives a port more to take. -/
theorem Move.takable {s t : State} (h : Move s t) (q : Port) : (t.port q).takable ≤ (s.port q).takable := by
  cases h with
  | responds p st rs => exact takable_setPort (takable_respond _ _ _)
  | raisesMgmt k => exact takable_setPort (p := .mgmt) (by exact Nat.le_refl _)
  | raisesClient c k _ => exact takable_setPort (p := .client c) (by exact Nat.le_refl _)
  | marks p v => exact takable_setPort (by exact Nat.le_refl _)
  | begins p hc =>
    refine takable_setPort ?_
    rw [(takable_of_canTake hc).1]
    exact Nat.sub_le _ _
  | polls p => exact takable_setPort (by exact Nat.le_refl _)
  | images i o => exact takable_clients (by rfl) (fun _ => ⟨by rfl, by rfl⟩)
  | maps m _ => exact takable_clients (by rfl) (fun _ => ⟨by rfl, by rfl⟩)
  | employs l m _ => exact takable_clients (by rfl) (fun _ => ⟨by rfl, by rfl⟩)
  | binds c ap r _ =>
    refine takable_clients (by rfl) (fun d => ?_)
    unfold setAperture
    rw [client_setClient]
    split
    · rename_i hd; rw [hd]; exact ⟨rfl, rfl⟩
    · exact ⟨rfl, rfl⟩
  | revokes i =>
    refine takable_clients (by rfl) (fun d => ?_)
    unfold State.client
    rw [Quad.get_map]
    unfold revokeAt
    split <;> exact ⟨rfl, rfl⟩
  | levels c l _ =>
    refine takable_clients (by rfl) (fun d => ?_)
    unfold setLevel
    rw [client_setClient]
    split
    · rename_i hd; rw [hd]; exact ⟨rfl, rfl⟩
    · exact ⟨rfl, rfl⟩
  | serves b k _ => exact takable_clients (by rfl) (fun _ => ⟨by rfl, by rfl⟩)
  | drops n => exact takable_clients (by rfl) (fun _ => ⟨by rfl, by rfl⟩)
  | quits b => exact takable_clients (by rfl) (fun _ => ⟨by rfl, by rfl⟩)
  | programs b p w _ _ _ _ _ => exact takable_clients (by rfl) (fun _ => ⟨by rfl, by rfl⟩)
  | erases b n sector w _ _ _ _ _ => exact takable_clients (by rfl) (fun _ => ⟨by rfl, by rfl⟩)
  | resumes b e _ _ _ _ _ => exact takable_clients (by rfl) (fun _ => ⟨by rfl, by rfl⟩)
  | suspends b e _ _ _ => exact takable_clients (by rfl) (fun _ => ⟨by rfl, by rfl⟩)
  | claims b v _ => exact takable_clients (by rfl) (fun _ => ⟨by rfl, by rfl⟩)
  | grants _ h =>
    unfold grantSlot at h
    split at h
    · cases h
    · split at h
      · rw [← Option.some.inj h]; exact takable_clients (by rfl) (fun _ => ⟨by rfl, by rfl⟩)
      · split at h
        · rw [← Option.some.inj h]; exact takable_clients (by rfl) (fun _ => ⟨by rfl, by rfl⟩)
        · cases h
  | admits w _ => exact takable_clients (by rfl) (fun _ => ⟨by rfl, by rfl⟩)
  | lodges => exact takable_clients (by rfl) (fun _ => ⟨by rfl, by rfl⟩)
  | runs o _ _ => exact takable_clients (by rfl) (fun _ => ⟨by rfl, by rfl⟩)
  | closes w =>
    have hb : ∀ u : State, u.mgmt = s.mgmt → u.clients = s.clients → ∀ q, ((refreshBoot u).port q).takable ≤ (s.port q).takable := by
      intro u h1 h2 q
      refine takable_clients (by exact h1) (fun d => ?_)
      unfold refreshBoot State.client
      dsimp only
      rw [Quad.get_map, h2]
      exact ⟨rfl, rfl⟩
    cases w
    · exact takable_clients (by rfl) (fun _ => ⟨by rfl, by rfl⟩)
    · exact takable_clients (by rfl) (fun _ => ⟨by rfl, by rfl⟩)
    · exact hb (releaseSlot .settings { s with op := none }) rfl rfl q
    · exact hb (releaseSlot .settings { s with op := none }) rfl rfl q
    · exact hb (releaseSlot .settings { s with op := none }) rfl rfl q

theorem Moves.takable {s t : State} (h : Moves s t) (q : Port) : (t.port q).takable ≤ (s.port q).takable := by
  induction h with
  | refl => exact Nat.le_refl _
  | tail _ hab ih => exact Nat.le_trans (hab.takable q) ih

/-- A take uses up a request of its port, and gives no port more to take. -/
theorem takable_takeHead {s : State} {p : Port} (hc : (s.port p).canTake = true) :
    ((takeHead p s).port p).takable + 1 ≤ (s.port p).takable
    ∧ ∀ q, ((takeHead p s).port q).takable ≤ (s.port q).takable := by
  refine ⟨?_, fun q => ((Moves.refl s).takeHead hc).takable q⟩
  obtain ⟨h1, h2, h3⟩ := takable_of_canTake hc
  unfold takeHead
  split
  · rename_i tag r rest hq
    have hm : Moves (s.setPort p { s.port p with inService := true })
        (takeRequest p r (s.setPort p { s.port p with inService := true })) := by
      refine Moves.takeRequest (Moves.refl _) ?_
      rw [port_setPort_same]
      exact Moves.ready_of_canTake (u := s.port p) hc
    have hb := hm.takable p
    rw [port_setPort_same] at hb
    have : ({ s.port p with inService := true } : PortUnit).takable = (s.port p).queue.length - 1 := rfl
    rw [h1]
    have hl : (s.port p).queue.length = rest.length + 1 := by rw [hq]; rfl
    omega
  · rename_i hq
    exact absurd hq h2

/-- A port that can take has something to take. -/
theorem takable_pos {u : PortUnit} (hc : u.canTake = true) : 0 < u.takable := by
  obtain ⟨h1, h2, _⟩ := takable_of_canTake hc
  rw [h1]
  exact List.length_pos_of_ne_nil h2

/-- Enough takes leave a port that cannot take, and more change nothing. -/
theorem takeN_spec (p : Port) (n : Nat) {s : State} (h : (s.port p).takable ≤ n) :
    ((takeN n p s).port p).canTake = false ∧ ∀ m, (s.port p).takable ≤ m → takeN m p s = takeN n p s := by
  induction n generalizing s with
  | zero =>
    have hc : (s.port p).canTake = false := by
      cases hk : (s.port p).canTake
      · rfl
      · have := takable_pos hk; omega
    refine ⟨hc, fun m _ => ?_⟩
    cases m with
    | zero => rfl
    | succ m => unfold takeN; rw [hc]; rfl
  | succ n ih =>
    cases hk : (s.port p).canTake with
    | false =>
      have h0 : ∀ m, takeN m p s = s := by
        intro m
        cases m with
        | zero => rfl
        | succ m => unfold takeN; rw [hk]; rfl
      rw [h0]
      exact ⟨hk, fun m _ => h0 m⟩
    | true =>
      have ht := (takable_takeHead hk).1
      obtain ⟨h1, h2⟩ := ih (s := takeHead p s) (by omega)
      have hs : ∀ m, takeN (m + 1) p s = takeN m p (takeHead p s) := by
        intro m
        rw [takeN, hk]
        rfl
      rw [hs]
      refine ⟨h1, fun m hm => ?_⟩
      cases m with
      | zero => have := takable_pos hk; omega
      | succ m =>
        rw [hs]
        exact h2 m (by omega)

theorem takable_le (u : PortUnit) : u.takable ≤ u.queue.length := Nat.sub_le _ _

/-- The takes of a port leave a port that cannot take (R167). -/
theorem canTake_takesAt (p : Port) (s : State) : ((takesAt p s).port p).canTake = false :=
  (takeN_spec p _ (takable_le _)).1

/-- The takes of a port that can take: one, and then the others (R167). -/
theorem takesAt_of_canTake {p : Port} {s : State} (hc : (s.port p).canTake = true) :
    takesAt p s = takesAt p (takeHead p s) := by
  obtain ⟨h1, h2, _⟩ := takable_of_canTake hc
  have ht := (takable_takeHead hc).1
  unfold takesAt
  cases hn : (s.port p).queue.length with
  | zero => exact absurd (List.length_eq_zero_iff.mp hn) h2
  | succ n =>
    rw [takeN, hc, if_pos rfl]
    exact (takeN_spec p _ (takable_le _)).2 n (by omega)

/-- The takes of a port that cannot take. -/
theorem takesAt_of_not {p : Port} {s : State} (hc : (s.port p).canTake = false) : takesAt p s = s := by
  unfold takesAt
  cases (s.port p).queue.length with
  | zero => rfl
  | succ n => rw [takeN, hc]; rfl

/-- How many requests the ports may still take. -/
def takableAll (s : State) : Nat := (s.port .mgmt).takable + (s.port (.client .zero)).takable
  + (s.port (.client .one)).takable + (s.port (.client .two)).takable + (s.port (.client .three)).takable

theorem takableAll_le (s : State) : takableAll s ≤ queued s := by
  have h := fun p => takable_le (s.port p)
  have h0 := h .mgmt
  have h1 := h (.client .zero)
  have h2 := h (.client .one)
  have h3 := h (.client .two)
  have h4 := h (.client .three)
  simp only [takableAll, queued, Port.all, List.foldl]
  omega

/-- What a take at the lowest port that can take is. -/
theorem takeAny_spec {s t : State} (h : takeAny s = some t) : takableAll t + 1 ≤ takableAll s := by
  unfold takeAny at h
  rw [Option.map_eq_some_iff] at h
  obtain ⟨p, hp, rfl⟩ := h
  have hc : (s.port p).canTake = true := List.find?_some (p := fun q => (s.port q).canTake) hp
  obtain ⟨h1, h2⟩ := takable_takeHead hc
  have q0 := h2 .mgmt
  have q1 := h2 (.client .zero)
  have q2 := h2 (.client .one)
  have q3 := h2 (.client .two)
  have q4 := h2 (.client .three)
  unfold takableAll
  cases p with
  | mgmt => omega
  | client c => cases c <;> omega

theorem takeAny_none {s : State} : takeAny s = none ↔ ∀ p, (s.port p).canTake = false := by
  unfold takeAny
  rw [Option.map_eq_none_iff, List.find?_eq_none]
  constructor
  · intro h p
    have : p ∈ Port.all := by
      cases p with
      | mgmt => simp [Port.all]
      | client c => cases c <;> simp [Port.all]
    simpa using h p this
  · intro h p _
    simp [h p]

/-- Enough takes leave no port that can take, and more change nothing. -/
theorem takeAnyN_spec (n : Nat) {s : State} (h : takableAll s ≤ n) :
    (∀ p, ((takeAnyN n s).port p).canTake = false) ∧ ∀ m, takableAll s ≤ m → takeAnyN m s = takeAnyN n s := by
  induction n generalizing s with
  | zero =>
    have hn : takeAny s = none := by
      cases hk : takeAny s with
      | none => rfl
      | some t => have := takeAny_spec hk; omega
    refine ⟨takeAny_none.mp hn, fun m _ => ?_⟩
    cases m with
    | zero => rfl
    | succ m => simp only [takeAnyN, hn]
  | succ n ih =>
    cases hk : takeAny s with
    | none =>
      have h0 : ∀ m, takeAnyN m s = s := by
        intro m
        cases m with
        | zero => rfl
        | succ m => simp only [takeAnyN, hk]
      rw [h0]
      exact ⟨takeAny_none.mp hk, fun m _ => h0 m⟩
    | some t =>
      have ht := takeAny_spec hk
      obtain ⟨h1, h2⟩ := ih (s := t) (by omega)
      have hs : ∀ m, takeAnyN (m + 1) s = takeAnyN m t := by
        intro m
        simp only [takeAnyN, hk]
      rw [hs]
      refine ⟨h1, fun m hm => ?_⟩
      cases m with
      | zero => omega
      | succ m => rw [hs]; exact h2 m (by omega)

/-- The takes of all ports leave no port that can take (R167). -/
theorem canTake_takesAll (p : Port) (s : State) : ((takesAll s).port p).canTake = false :=
  (takeAnyN_spec _ (takableAll_le s)).1 p

/-- With no port that can take, nothing is taken. -/
theorem takesAll_of_none {s : State} (h : takeAny s = none) : takesAll s = s := by
  unfold takesAll
  cases queued s with
  | zero => rfl
  | succ n => rw [takeAnyN, h]

/-- The takes of all ports: one at the lowest port that can take, and then the others (log 12). -/
theorem takesAll_of_some {s t : State} (h : takeAny s = some t) : takesAll s = takesAll t := by
  have ht := takeAny_spec h
  have hl := takableAll_le s
  unfold takesAll
  cases hn : queued s with
  | zero => omega
  | succ n =>
    rw [takeAnyN, h]
    exact (takeAnyN_spec _ (takableAll_le t)).2 n (by omega)

end Sys2Proof.Machine
end

