-- ==== Sys2Proof/Tests/Slice0.lean ====
section
/-! SUPPORT. Small tests: ill-formed commands are refused by the check, worked examples on small states, and, for every
statement with hypotheses, a state and operands that meet all of them. -/

namespace Sys2Proof.Tests

open Sys2Proof.Machine

/-! The tests are elaborated one after another: each evaluates in the kernel, and many at once would each wait in a thread of
its own for the whole package to be checked. -/
set_option Elab.async false

/-! ## Ill-formed commands -/

theorem test_wf_index_too_wide : Instr.wf (.entry 0 65536) = false ∧ Instr.wf (.entry 0 65535) = true := by decide
theorem test_wf_sector_too_wide : Instr.wf (.sector 0 256) = false ∧ Instr.wf (.sector 0 255) = true := by decide
theorem test_wf_open_first : Instr.wf (.openImage 0 1 256 1 1 0) = false := by decide
theorem test_wf_open_count : Instr.wf (.openImage 0 1 0 65536 1 0) = false := by decide
theorem test_wf_open_kind : Instr.wf (.openImage 0 1 0 1 256 0) = false := by decide
theorem test_wf_open_level : Instr.wf (.openImage 0 1 0 1 1 256) = false := by decide
theorem test_wf_write_index : Instr.wf (.write 0 65536 0 []) = false := by decide
theorem test_wf_write_offset : Instr.wf (.write 0 1 4294967296 []) = false := by decide
theorem test_wf_write_data : Request.wf (.write 1 0 (List.replicate 65530 0)) = false := by decide +kernel
theorem test_wf_publish_index : Instr.wf (.publish 0 65536 1 0) = false := by decide
theorem test_wf_publish_length : Instr.wf (.publish 0 1 4294967296 0) = false := by decide
theorem test_wf_abandon : Instr.wf (.abandon 0 256) = false := by decide
theorem test_wf_retire : Instr.wf (.retire 0 65536) = false := by decide
theorem test_wf_revoke : Instr.wf (.revoke 0 65536) = false := by decide
theorem test_wf_discard : Instr.wf (.discard 0 65536) = false := by decide
theorem test_wf_erase : Instr.wf (.erase 0 256) = false := by decide
theorem test_wf_clear_accessed : Instr.wf (.clearAccessed 0 65536) = false := by decide
theorem test_wf_read_index : Instr.wf (.read 0 65536 0 1) = false := by decide
theorem test_wf_read_offset : Instr.wf (.read 0 1 4294967296 1) = false := by decide
theorem test_wf_read_length : Instr.wf (.read 0 1 0 65536) = false := by decide
theorem test_wf_read_raw_sector : Instr.wf (.readRaw 0 256 0 0 1) = false := by decide
theorem test_wf_read_raw_line : Instr.wf (.readRaw 0 0 256 0 1) = false := by decide
theorem test_wf_read_raw_byte : Instr.wf (.readRaw 0 0 0 256 1) = false := by decide
theorem test_wf_read_raw_length : Instr.wf (.readRaw 0 0 0 0 65536) = false := by decide
theorem test_wf_set_level_port : Instr.wf (.setLevel 0 256 0) = false := by decide
theorem test_wf_set_level_level : Instr.wf (.setLevel 0 1 256) = false := by decide
theorem test_wf_protect : Instr.wf (.protect 0 256) = false := by decide
theorem test_wf_boot_set_port : Instr.wf (.bootSet 0 256 1 1 0) = false := by decide
theorem test_wf_boot_set_level : Instr.wf (.bootSet 0 1 1 1 256) = false := by decide
theorem test_wf_bind_aperture : Instr.wf (.bind .zero 0 256 1 0) = false := by decide
theorem test_wf_bind_generation : Instr.wf (.bind .zero 0 0 1 65536) = false := by decide
theorem test_wf_unbind : Instr.wf (.unbind .zero 0 256) = false := by decide
theorem test_wf_describe : Instr.wf (.describe .zero 0 256) = false := by decide
theorem test_wf_fetch_aperture : Instr.wf (.fetch .zero 0 256 0 4 1) = false := by decide
theorem test_wf_fetch_offset : Instr.wf (.fetch .zero 0 0 4294967296 4 1) = false := by decide
theorem test_wf_fetch_length : Instr.wf (.fetch .zero 0 0 0 256 1) = false := by decide
theorem test_wf_fetch_access : Instr.wf (.fetch .zero 0 0 0 4 256) = false := by decide
theorem test_wf_empty_frame : Instr.wf (.requestFrameArrival .mgmt []) = false := by decide

/-! ## CRCs (R176) -/

theorem test_crc8 : crc8 [0x31, 0x32, 0x33, 0x34, 0x35, 0x36, 0x37, 0x38, 0x39] = 0xF4 := by decide +kernel
theorem test_crc16 : crc16 [0x31, 0x32, 0x33, 0x34, 0x35, 0x36, 0x37, 0x38, 0x39] = 0x29B1 := by decide +kernel
theorem test_crc32 :
    crc32Finish (crc32Feed crc32Init [0x31, 0x32, 0x33, 0x34, 0x35, 0x36, 0x37, 0x38, 0x39]) = 0xCBF43926 := by decide +kernel

/-! ## States for the tests -/

/-- A part that has started: the scan has ended, every port is READY, and nothing is protected or locked. -/
def up : State :=
  { mgmt := { state := .ready }
    clients := ⟨{ port := { state := .ready } }, { port := { state := .ready } }, { port := { state := .ready } },
      { port := { state := .ready } }⟩
    rowCopy := BitVec.allOnes 64, lockInForce := false, scanStage := .finished }

/-- An OPEN image. -/
def opened : Image := { state := .opened, name := some 5, generation := 1, first := 10, count := 2, kind := .code, level := 2 }

/-- A BOUND record of an entry. -/
def record (entry : Nat) (revoked : Bool) : Aperture :=
  { revoked, entry, name := 6, generation := 3, kind := .code, payloadLength := 100, first := 20, count := 1, boot := false }

/-- A started part that holds an image in every state, three jobs, and bindings at client port 1. -/
def loaded : State :=
  { up with
    dir := [(1, some opened),
      (2, some { opened with state := .ready, name := some 6, generation := 3, first := 20, published := some (100, 0)
                             bindings := 1 }),
      (3, some { opened with state := .retiring, name := some 7, first := 30, published := some (100, 0), bindings := 1 }),
      (4, some { opened with state := .verifying 1, name := some 8, first := 40, published := some (600, 0) }),
      (5, some { opened with state := .discarding 2, name := some 9, first := 50 }),
      (6, some { opened with state := .ready, name := some 6, generation := 1, first := 70, published := some (100, 0) })]
    sectors := [(50, { owner := some 5, target := some 2 }), (51, { owner := some 5, target := some 2 })]
    jobs := [{ number := 1, work := .verify 4 false 0 crc32Init, sector := 40, line := 1, active := false },
      { number := 2, work := .discard 5 2, sector := 51, line := 0, active := false },
      { number := 3, work := .erase 200, sector := 200, line := 0, active := false },
      { number := 4, work := .verify 7 true 100 0, sector := 60, line := 0, active := false }]
    clients := up.clients.set .zero { port := { state := .ready }
                                      apertures := [(0, some (record 2 false)), (1, some (record 3 false)),
                                        (7, some (record 2 true))] } }

/-- `up` with one bank record. -/
def withBank (k : Bank) : State := { up with banks := up.banks.set .zero k }

/-- A program sequence of a WRITE. -/
def sequence : ProgramSequence := { issuer := .write, sector := 1, line := 2, first := 3, values := [0x11, 0x22] }

/-- A read access of client port 1. -/
def access : ReadAccess :=
  { port := .client .zero, request := .fetch, entry := some 2, sector := 20, line := 1, first := 0, length := 4 }

/-- A port attends when it is READY and its record holds nothing else. -/
theorem attends_of {s : State} {p : Port} (hr : s.resetHeld = false) (hp : s.port p = { state := .ready }) : s.Attends p := by
  constructor <;> simp [hr, hp]

theorem up_attends (p : Port) : up.Attends p := by cases p with
  | mgmt => exact attends_of rfl rfl
  | client c => cases c <;> exact attends_of rfl rfl

theorem loaded_attends (p : Port) : loaded.Attends p := by cases p with
  | mgmt => exact attends_of rfl rfl
  | client c => cases c <;> exact attends_of rfl rfl

theorem up_due : due up = none := by decide +kernel

theorem up_quiet (b : BankId) : up.Quiet b := by
  cases b <;> exact ⟨up_due, rfl, rfl, rfl, rfl, rfl⟩

/-! ## Worked examples -/

/-- IDENTIFY is taken and answered at its arrival: the frame is on the link. -/
theorem test_identify_ok : ∃ t, step { up with pending := [.identify .mgmt 9] } = .next t
    ∧ t.pending = [] ∧ t.mgmt.queue = [] ∧ (t.mgmt.sending.map fun f => (f.kind, f.tag, f.status, f.results.length))
      = some (0x01, 9, .ok, 20) := ⟨_, rfl, rfl, rfl, rfl⟩

/-- POLL at a port with JOB_DONE and NEWER answers JOB_DONE, and NEWER as the remainder (R171). -/
theorem test_poll : ∃ t, exec (.poll .mgmt 1) { up with mgmt := { up.mgmt with causes := { jobDone := true, newer := true } } } =
    .next t ∧ t.mgmt.causes = { newer := true }
    ∧ t.mgmt.sending = some { kind := 0x02, tag := 1, status := .ok, results := [0x02, 0x00, 0x01, 0x13] } :=
  ⟨_, rfl, rfl, rfl⟩

/-- A frame whose CRC-8 is wrong is answered FRAME_ERROR with its kind and tag (R164). -/
theorem test_frame_error : ∃ t, exec (.requestFrameArrival .mgmt [0x01, 0x07, 0x00, 0x00, 0xEE]) up = .next t
    ∧ t.mgmt.sending = some { kind := 0x01, tag := 0x07, status := .frameError, results := [] } := ⟨_, rfl, by decide +kernel⟩

/-- A client port does not accept ENTRY (R166). -/
theorem test_unknown_request : ∃ t, exec (.requestFrameArrival (.client .one) (requestFrame 3 (.entry 1))) up = .next t
    ∧ (t.client .one).port.sending = some { kind := 0x10, tag := 3, status := .unknownRequest, results := [] } :=
  ⟨_, rfl, by decide +kernel⟩

/-- A frame spelled byte by byte from R177 and R179: SET_LEVEL of port 2 to level 1. -/
theorem test_set_level_frame : decodeRequest 0x38 [0x02, 0x01] = some (.setLevel 2 1)
    ∧ (requestFrame 0x55 (.setLevel 2 1)).take 6 = [0x38, 0x55, 0x00, 0x02, 0x02, 0x01] := by decide +kernel

/-- A client resolves the newest READY generation of name 6, and finds the older one when it pins it (R17, R18). -/
theorem test_resolution : (newest loaded 6).map (·.1) = some 2 ∧ (pinned loaded 6 1).map (·.1) = some 6
    ∧ pinned loaded 6 2 = none ∧ newest loaded 5 = none := by decide +kernel

/-- An erase that starts at a quiet bank holds a slot at once (R80, R87). -/
theorem test_erase_starts : ∃ t, exec (.erase 2 200) up = .next t ∧ (t.bank .three).activity = .erasing
    ∧ t.slotA = some (.bank .three) ∧ (t.job 1).map (·.active) = some true := ⟨_, rfl, by decide +kernel⟩

/-- At reset the part is STARTING; the settings read lets the scan begin at sector 0 (R153). -/
theorem test_scan_begins : ∃ t, step { State.reset with pending := [.settingsReadCompletion] } = .next t
    ∧ t.scanStage = .scanning ∧ (t.bank .zero).activity = .sensing (.scan 0) := ⟨_, rfl, by decide +kernel⟩

/-- The header line of the greatest image, and the boot entry with every name bit set, read back (R154, R145). -/
theorem test_stored_records :
    headerImage 0 (headerLine 0xFFFFFFFF 65535 0 .data 256 3) = some
      { state := .opened, name := some 0xFFFFFFFF, generation := 65535, first := 0, count := 256, kind := .data, level := 3 }
    ∧ bootForm (bootEntryBytes 0xFFFFFFFF 0xFFFFFFFF 3) = .valid 0xFFFFFFFF 0xFFFFFFFF 3
    ∧ (headerLine 1 1 8 .exec 2 0).take 18 = [0x4E, 0x55, 0x49, 0xD7, 0, 0, 0, 1, 0, 1, 8, 1, 0, 2, 0, 0xFF]
      ++ be 2 (crc16 [0, 0, 0, 1, 0, 1, 8, 1, 0, 2, 0]).toNat := by decide +kernel

/-! ## Hypotheses met: steps, rows and frames -/

theorem witness_tick :
    let s : State := { up with
      banks := ⟨{ activity := .erasing, erase := some { sector := 1, job := 1, runningTime := 5, lockout := 1 } },
        { activity := .programming { sequence with sector := 65 } (.program 7) }, { activity := .suspending 19 }, {}⟩
      op := some { work := .eraseRow, running := true, elapsed := 3 } }
    s.pending = [] ∧ s.resetHeld = false ∧ (s.bank .zero).activity = .erasing
    ∧ (s.bank .zero).erase = some { sector := 1, job := 1, runningTime := 5, lockout := 1 }
    ∧ (s.bank .one).activity = .programming { sequence with sector := 65 } (.program 7)
    ∧ (s.bank .two).activity = .suspending 19
    ∧ s.op = some { work := .eraseRow, running := true, elapsed := 3 }
    ∧ { up with resetHeld := true }.pending = [] ∧ { up with resetHeld := true }.resetHeld = true := by decide

theorem witness_limits :
    let suspending := fun n time : Nat =>
      withBank { activity := .suspending n, erase := some { sector := 9, job := 3, runningTime := time } }
    let running := fun (work : SettingsWork) (elapsed : Nat) =>
      ({ up with op := some { work, running := true, elapsed }, slotB := some .settings } : State)
    ((withBank { activity := .programming sequence (.program 1999) }).bank .zero).activity = .programming sequence (.program 1999)
    ∧ ((withBank { activity := .programming sequence (.program 2000) }).bank .zero).activity =
        .programming sequence (.program 2000)
    ∧ ((suspending 19 1999999).bank .zero).activity = .suspending 19
    ∧ ((suspending 20 1999999).bank .zero).erase = some { sector := 9, job := 3, runningTime := 1999999 }
    ∧ ((suspending 20 2000000).bank .zero).erase = some { sector := 9, job := 3, runningTime := 2000000 }
    ∧ (up.bank .zero).activity = .idle
    ∧ storePowered up = false ∧ SettingsWork.lockMark.isErase = false ∧ SettingsWork.eraseRow.isErase = true
    ∧ (running .lockMark 1999).op = some { work := .lockMark, running := true, elapsed := 1999 }
    ∧ (running .lockMark 2000).op = some { work := .lockMark, running := true, elapsed := 2000 }
    ∧ (running .eraseRow 399999).op = some { work := .eraseRow, running := true, elapsed := 399999 }
    ∧ (running .eraseRow 400000).op = some { work := .eraseRow, running := true, elapsed := 400000 } := by decide

theorem witness_request_row :
    requestOf (.write 7 1 0 [1]) = some (.mgmt, 7, .write 1 0 [1]) ∧ Request.wf (.write 1 0 [1]) = true
    ∧ requestOf (.fetch .three 0 7 4 4 1) = some (.client .three, 0, .fetch 7 4 4 1) := by decide

theorem witness_arrival :
    let full : PortUnit := { state := .ready, queue := [(0, .poll), (1, .poll), (2, .poll), (3, .poll)], inService := true }
    let three : PortUnit := { state := .ready, queue := [(0, .poll), (1, .poll), (2, .poll)], inService := true }
    let marked : PortUnit := { state := .ready, readMark := true }
    { up with resetHeld := true }.resetHeld = true
    ∧ ({ up with clients := up.clients.set .one { port := { state := .resetting } } }.port (.client .one)).state = .resetting
    ∧ (State.reset.resetHeld = false ∧ (State.reset.port .mgmt).state = .starting)
    ∧ (({ up with mgmt := full }.port .mgmt).state = .ready ∧ 4 ≤ ({ up with mgmt := full }.port .mgmt).queue.length)
    ∧ (({ up with mgmt := three }.port .mgmt).queue.length < 4 ∧ ({ up with mgmt := three }.port .mgmt).inService = true)
    ∧ (({ up with mgmt := marked }.port .mgmt).queue.length < 4 ∧ ({ up with mgmt := marked }.port .mgmt).readMark = true)
    ∧ ∃ r, 8 ≤ ({ up with mgmt := { state := .ready, sending := some r, notBegun := List.replicate 8 r } }.port
        .mgmt).notBegun.length := by
  refine ⟨rfl, rfl, ⟨rfl, rfl⟩, ⟨rfl, by decide⟩, ⟨by decide, rfl⟩, ⟨by decide, rfl⟩,
    ⟨{ kind := 1, tag := 1, status := .ok, results := [] }, by decide⟩⟩

theorem witness_short_frame : ([7] : List Byte).length < 2 ∧ up.resetHeld = false ∧ (up.port .mgmt).state ≠ .resetting
    ∧ { up with resetHeld := true }.resetHeld = true := by decide

theorem witness_frame_sent :
    let f : Response := { kind := 1, tag := 1, status := .ok, results := [] }
    (up.port .mgmt).sending = none ∧ ({ up with mgmt := { state := .ready, sending := some f } }.port .mgmt).sending = some f := by
  decide

theorem witness_takes :
    let ready : PortUnit := { state := .ready, queue := [(1, .poll), (2, .identify)] }
    let s : State := { up with clients := up.clients.set .one { port := ready } }
    (s.port (.client .one)).canTake = true ∧ (s.port (.client .one)).queue = [(1, .poll), (2, .identify)]
    ∧ (∀ q ∈ Port.all, q.number < (Port.client .one).number → (s.port q).canTake = false)
    ∧ (s.port .mgmt).canTake = false ∧ (∀ q ∈ Port.all, (up.port q).canTake = false) := by decide

theorem witness_frame_reads_back : Request.wf (.openImage 0xFFFFFFFF 255 65535 255 255) = true
    ∧ Request.wf (.fetch 255 4294967295 255 255) = true ∧ Request.wf (.write 65535 4294967295 []) = true := by decide +kernel

theorem witness_header_line : (1 : Word32) ≠ 0 ∧ 1 ≤ 65535 ∧ 65535 ≤ 65535 ∧ 1 ≤ 256 ∧ 256 ≤ 256 ∧ 0 + 256 - 1 ≤ 255
    ∧ 3 ≤ 3 ∧ 255 + 1 - 1 ≤ 255 := by decide

/-- A header line with the three mark bytes. -/
def marks (p r d : Byte) : List Byte := List.replicate 64 0 ++ [p, r, d] ++ List.replicate 189 0

theorem witness_marks :
    (marks 0xFF 0xFF 0x00).length = 256 ∧ (marks 0xFF 0xFF 0x00).getD 66 0 ≠ 0xFF
    ∧ ((marks 0x7F 0xFF 0xFF).getD 66 0 = 0xFF ∧ (marks 0x7F 0xFF 0xFF).getD 64 0 ≠ 0x00 ∧ (marks 0x7F 0xFF 0xFF).getD 64 0 ≠ 0xFF)
    ∧ ((marks 0x00 0x01 0xFF).getD 65 0 ≠ 0x00 ∧ (marks 0x00 0x01 0xFF).getD 65 0 ≠ 0xFF)
    ∧ ((marks 0xFF 0x00 0xFF).getD 64 0 = 0xFF ∧ (marks 0xFF 0x00 0xFF).getD 65 0 = 0x00)
    ∧ ((marks 0x00 0xFF 0xFF).getD 64 0 = 0x00 ∧ (marks 0x00 0xFF 0xFF).getD 65 0 = 0xFF)
    ∧ ((marks 0xFF 0xFF 0xFF).getD 64 0 = 0xFF ∧ (marks 0xFF 0xFF 0xFF).getD 65 0 = 0xFF) := by decide +kernel

theorem witness_stored_bytes :
    (headerLine 1 1 8 .exec 2 0).length = 256 ∧ headerImage 8 (headerLine 1 1 8 .exec 2 0) ≠ none
    ∧ headerImage 9 (headerLine 1 1 8 .exec 2 0) = none ∧ (List.replicate 11 (0xFF : Byte)).length = 11
    ∧ (bootEntryBytes 1 0 3).length = 11
    ∧ unbe ((bootEntryBytes 1 0 3).drop 9) = (crc16 ((bootEntryBytes 1 0 3).take 9)).toNat
    ∧ bootForm (List.replicate 11 0) = .invalid ∧ List.replicate 11 (0 : Byte) ≠ List.replicate 11 0xFF := by decide +kernel

/-! ## Hypotheses met: requests -/

theorem witness_attends_identify : up.Attends .mgmt ∧ up.Attends (.client .three) := ⟨up_attends _, up_attends _⟩

theorem witness_poll :
    let s : State := { up with mgmt := { up.mgmt with causes := { restarted := true } } }
    s.Attends .mgmt ∧ (s.port .mgmt).causes.list = [.restarted] ∧ (up.port .mgmt).causes.list = [] :=
  ⟨⟨rfl, rfl, rfl, rfl, rfl, by decide⟩, rfl, rfl⟩

/-- The attention output is asserted with a cause in the set, and released by the POLL that takes the last one (R172). -/
theorem test_attention :
    let s : State := { up with mgmt := { up.mgmt with causes := { restarted := true } } }
    (s.port .mgmt).attention = true ∧ ∃ t, exec (.poll .mgmt 1) s = .next t ∧ (t.port .mgmt).attention = false :=
  ⟨rfl, _, rfl, rfl⟩

theorem witness_reports : loaded.Attends .mgmt ∧ Table.wf none loaded.dir = true ∧ (0 : Word32) = 0 ∧ (6 : Word32) ≠ 0
    ∧ loaded.image 2 ≠ none ∧ loaded.image 256 = none := ⟨loaded_attends _, by decide⟩

theorem witness_clear_accessed : loaded.Attends .mgmt ∧ ¬ (1 ≤ 0 ∧ 0 ≤ 256) ∧ ¬ (1 ≤ 257 ∧ 257 ≤ 256)
    ∧ (1 ≤ 256 ∧ 256 ≤ 256 ∧ loaded.image 256 = none) ∧ (1 ≤ 1 ∧ 1 ≤ 256 ∧ loaded.image 1 = some opened) :=
  ⟨loaded_attends _, by decide⟩

theorem witness_set_level : up.Attends .mgmt ∧ 4 = Four.three.pos + 1 ∧ 3 ≤ 3 ∧ ¬ (1 ≤ 0 ∧ 0 ≤ 4 ∧ 3 ≤ 3)
    ∧ ¬ (1 ≤ 5 ∧ 5 ≤ 4 ∧ 3 ≤ 3) ∧ ¬ (1 ≤ 4 ∧ 4 ≤ 4 ∧ 4 ≤ 3) := ⟨up_attends _, by decide⟩

/-- The image of an entry is listed in the directory. -/
theorem image_mem {s : State} {i : Nat} {im : Image} (h : s.image i = some im) : (i, some im) ∈ s.dir := by
  have : ∀ l : List (Nat × Option Image), Table.get none l i = some im → (i, some im) ∈ l := by
    intro l
    induction l with
    | nil => intro h; simp [Table.get] at h
    | cons e l ih =>
      obtain ⟨k, v⟩ := e
      intro h
      simp only [Table.get] at h
      split at h
      · subst_vars; exact List.mem_cons_self
      · exact List.mem_cons_of_mem _ (ih h)
  exact this _ h

theorem witness_newest : Table.wf none loaded.dir = true ∧ (newest loaded 6).isSome = true
    ∧ (∀ i im, loaded.image i = some im → im.name ≠ some 0)
    ∧ (∀ i j im jm, loaded.image i = some im → loaded.image j = some jm → im.name = some 6 → jm.name = some 6 →
        im.generation = jm.generation → i = j)
    ∧ loaded.aperture .zero 0 = some (record 2 false) ∧ (record 2 false).name = 6 := by
  refine ⟨by decide, by decide +kernel, ?_, ?_, rfl, rfl⟩
  · intro i im h
    have h := image_mem h
    have all : ∀ e ∈ loaded.dir, ∀ m ∈ e.2, m.name ≠ some 0 := by decide
    exact all _ h im rfl
  · intro i j im jm hi hj a b c
    have all : ∀ e ∈ loaded.dir, ∀ f ∈ loaded.dir, ∀ m ∈ e.2, ∀ n ∈ f.2, m.name = some 6 → n.name = some 6 →
        m.generation = n.generation → e.1 = f.1 := by decide
    exact all _ (image_mem hi) _ (image_mem hj) im rfl jm rfl a b c

theorem witness_pinned : Table.wf none loaded.dir = true ∧ (pinned loaded 6 1).isSome = true ∧ (1 : Nat) ≠ 0
    ∧ loaded.Attends (.client .zero) ∧ loaded.aperture .zero 6 = none ∧ resolve loaded 6 2 = none :=
  ⟨by decide, by decide +kernel, by decide, loaded_attends _, rfl, by decide +kernel⟩

theorem witness_bind : loaded.Attends (.client .zero) ∧ loaded.aperture .zero 6 = none ∧ (resolve loaded 6 0).isSome = true :=
  ⟨loaded_attends _, rfl, by decide +kernel⟩

theorem witness_unbind_describe : loaded.Attends (.client .zero) ∧ loaded.aperture .zero 6 = none
    ∧ loaded.aperture .zero 0 = some (record 2 false) ∧ loaded.aperture .zero 1 = some (record 3 false)
    ∧ loaded.aperture .zero 7 = some (record 2 true) ∧ (record 2 true).revoked = true ∧ (record 3 false).revoked = false :=
  ⟨loaded_attends _, by decide⟩

theorem canonical_loaded : loaded.Canonical :=
  ⟨rfl, rfl, by decide, by decide, rfl, fun c => by cases c <;> decide⟩

theorem counted_loaded : loaded.Counted := by
  intro i im h
  have all : ∀ e ∈ loaded.dir, ∀ m ∈ e.2, m.bindings = totalBound e.1 loaded := by decide +kernel
  exact all _ (image_mem h) im rfl

theorem witness_counts : loaded.Canonical ∧ loaded.Counted ∧ loaded.Attends (.client .zero) ∧ loaded.Attends .mgmt
    ∧ (∃ t, exec (.bind .zero 0 6 6 0) loaded = .next t) ∧ (∃ t, exec (.unbind .zero 0 0) loaded = .next t)
    ∧ ∃ t, exec (.revoke 0 3) loaded = .next t :=
  ⟨canonical_loaded, counted_loaded, loaded_attends _, loaded_attends _, ⟨_, rfl⟩, ⟨_, rfl⟩, ⟨_, rfl⟩⟩

/-- A settings read at reset is a step from a lawful state. -/
theorem witness_lawful :
    let s : State := { State.reset with pending := [.settingsReadCompletion] }
    s.Canonical ∧ s.PortsLegal ∧ s.Lawful ∧ ∃ t, step s = .next t := by
  have unit : ({} : PortUnit).Legal := by constructor <;> simp
  refine ⟨⟨rfl, rfl, rfl, rfl, rfl, fun c => by cases c <;> rfl⟩, ⟨unit, by decide, fun c => ?_, nofun⟩, ?_, _, rfl⟩
  · cases c <;> exact ⟨unit, fun _ => rfl, fun _ => rfl, fun _ => rfl⟩
  · exact (Kept.setHeld (v := false) (Kept.clearVolatile { State.reset with pending := [.settingsReadCompletion] })).lawful

theorem witness_fetch : loaded.Attends (.client .zero) ∧ 1 ≤ 1 ∧ 0 < capacity 1 ∧ capacity 256 - 1 < capacity 256 :=
  ⟨loaded_attends _, by decide⟩

theorem witness_management_reads : loaded.Attends .mgmt ∧ loaded.image 2 ≠ none ∧ loaded.image 5 ≠ none :=
  ⟨loaded_attends _, by decide⟩

theorem witness_read_joins :
    (withBank { activity := .lineOpen, openLine := some (20, 1) }).Quiet .zero ∧ access.dropped = false
    ∧ ((withBank { activity := .lineOpen, openLine := some (20, 1) }).bank .zero).openLine = some (access.sector, access.line)
    ∧ up.Quiet .zero ∧ (up.bank .zero).openLine ≠ some (access.sector, access.line) :=
  ⟨⟨by decide +kernel, rfl, rfl, rfl, rfl, rfl⟩, rfl, rfl, up_quiet _, by decide⟩

/-- A bank that erases, with its slot. -/
def erasing (lockout : Nat) : State :=
  { withBank { activity := .erasing, erase := some { sector := 9, job := 3, lockout } } with slotA := some (.bank .zero) }

theorem witness_read_waits : due (erasing 0) = none ∧ ((erasing 0).bank .zero).isFree = false
    ∧ ((erasing 0).bank .zero).activity = .erasing ∧ due (erasing 100) = none
    ∧ ((erasing 100).bank .zero).erase = some { sector := 9, job := 3, lockout := 100 }
    ∧ due (withBank { activity := .sensing (.read access) }) = none
    ∧ ((withBank { activity := .sensing (.read access) }).bank .zero).activity ≠ .erasing := by decide +kernel

theorem witness_image_requests : loaded.Attends .mgmt ∧ Table.wf none loaded.dir = true ∧ loaded.image 1 = some opened
    ∧ (loaded.image 2).map (·.state) = some .ready :=
  ⟨loaded_attends _, by decide⟩

theorem witness_abandon_checks : loaded.Attends .mgmt ∧ ¬ (1 ≤ 0 ∧ 0 ≤ 8) ∧ ¬ (1 ≤ 9 ∧ 9 ≤ 8)
    ∧ (1 ≤ 8 ∧ 8 ≤ 8 ∧ loaded.job 8 = none)
    ∧ (loaded.job 2).map (·.work.kind) = some .discard ∧ (loaded.job 3).map (·.work.kind) = some .erase
    ∧ (loaded.job 4).map (·.work) = some (.verify 7 true 100 0) := ⟨loaded_attends _, by decide⟩

theorem witness_abandon : loaded.Attends .mgmt ∧ 1 ≤ 1 ∧ 1 ≤ 8
    ∧ (loaded.job 1).map (·.work) = some (.verify 4 false 0 crc32Init) ∧ (loaded.image 4).isSome = true :=
  ⟨loaded_attends _, by decide⟩

theorem witness_revoke : loaded.Attends .mgmt ∧ ¬ (1 ≤ 257 ∧ 257 ≤ 256) ∧ loaded.image 256 = none
    ∧ (loaded.image 2).map (·.state) = some .ready ∧ (loaded.image 3).map (·.state) = some .retiring
    ∧ boundRecords 3 (loaded.client .zero) ≠ 0 ∧ boundRecords 3 (loaded.client .one) = 0 :=
  ⟨loaded_attends _, by decide +kernel⟩

theorem witness_erase : loaded.Attends .mgmt := loaded_attends _

theorem witness_supply_bound : up.Quiet .zero ∧ up.slotFree = true ∧ Four.nth (sequence.sector / 64) = .zero
    ∧ up.isProtected sequence.sector = false ∧ Four.nth (255 / 64) = .three ∧ up.isProtected 255 = false
    ∧ { up with slotA := some (.bank .one), slotB := some .settings }.Quiet (Four.nth (0 / 64))
    ∧ { up with slotA := some (.bank .one), slotB := some .settings }.slotFree = false
    ∧ (Access.media (.eraseStart 1 0) 0).isSupplyBound = true :=
  ⟨up_quiet _, rfl, rfl, by decide +kernel, rfl, by decide +kernel, ⟨by decide +kernel, rfl, rfl, rfl, rfl, rfl⟩, rfl, rfl⟩

/-- A bank that holds the slot of its claim, with a supply-bound access and a READ_RAW of sector 9 waiting. -/
def claiming (m : MediaAccess) : State :=
  { withBank { claim := .access, waiting := [.media m 0,
      .read { port := .mgmt, request := .readRaw, entry := none, sector := 9, line := 0, first := 0, length := 1 }] } with
    slotA := some (.bank .zero), mgmt := { state := .ready, queue := [(1, .readRaw 9 0 0 1)], inService := true
                                           readMark := true } }

theorem witness_starts :
    let program := claiming (.program sequence)
    let erase := claiming (.eraseStart 3 9)
    (program.bank .zero).isFree = true ∧ (program.bank .zero).claim = .access ∧ (program.bank .zero).erase = none
    ∧ program.holdsSlot (.bank .zero) = true
    ∧ (program.bank .zero).waiting.find? Access.isSupplyBound = some (.media (.program sequence) 0)
    ∧ program.isProtected 1 = false ∧ { program with wpHigh := false }.isProtected 1 = true
    ∧ (erase.bank .zero).waiting.find? Access.isSupplyBound = some (.media (.eraseStart 3 9) 0)
    ∧ erase.isProtected 9 = false ∧ { erase with rowCopy := 0 }.isProtected 9 = true
    ∧ (erase.bank .zero).waiting.any (isRawOf 9) = true ∧ (erase.bank .zero).waiting.any (isRawOf 8) = false
    ∧ (start erase .zero).isSome = true := by decide +kernel

/-- An erase that begins withdraws the waiting READ_RAW of its sector, which is answered BUSY_SECTOR (R59). -/
theorem test_raw_withdrawn : ∃ t, start (claiming (.eraseStart 3 9)) .zero = some t ∧ (t.bank .zero).waiting = []
    ∧ (t.bank .zero).activity = .erasing ∧ t.mgmt.readMark = false
    ∧ t.mgmt.sending = some { kind := 0x31, tag := 1, status := .busySector, results := [] } := ⟨_, rfl, by decide +kernel⟩

theorem witness_settings_requests : up.Attends .mgmt ∧ 4 = Four.three.pos + 1 ∧ (1 : Word32) ≠ 0 ∧ 3 ≤ 3
    ∧ ¬ (1 ≤ 0 ∧ 0 ≤ 4 ∧ (1 : Word32) ≠ 0 ∧ 3 ≤ 3) ∧ ¬ (1 ≤ 4 ∧ 4 ≤ 4 ∧ (0 : Word32) ≠ 0 ∧ 3 ≤ 3) :=
  ⟨up_attends _, by decide⟩

/-- Every byte of a target is 0xFF or its value, when a check of the list says so. -/
theorem acceptable_of {l : List (Byte × Byte)} (h : (l.all fun p => p.1 == 0xFF || p.1 == p.2) = true) :
    ∀ p ∈ l, p.1 = 0xFF ∨ p.1 = p.2 := fun p hp => by simpa using List.all_eq_true.mp h p hp

theorem witness_settings_starts :
    up.StoreQuiet ∧ up.slotFree = true ∧ up.row.getLsbD 63 = true
    ∧ ({ up with row := 0 }.StoreQuiet ∧ { up with row := 0 }.row.getLsbD 0 = false)
    ∧ (SettingsWork.bootEntry .three (bootEntryBytes 1 0 3) = .bootEntry .three (bootEntryBytes 1 0 3) ∧ 48 = 16 * Four.three.pos)
    ∧ (∀ p ∈ (Memory.readN up.boot 48 11).zip (bootEntryBytes 1 0 3), p.1 = 0xFF ∨ p.1 = p.2)
    ∧ Memory.readN up.boot 48 11 ≠ bootEntryBytes 1 0 3
    ∧ (let locked : State := { up with boot := [(64, 0)] }
       locked.StoreQuiet ∧ Memory.readN locked.boot 64 1 = [0x00])
    ∧ (let marked : State := { up with boot := [(64, 1)] }
       marked.StoreQuiet ∧ ∃ p ∈ (Memory.readN marked.boot 64 1).zip [(0x00 : Byte)], p.1 ≠ 0xFF ∧ p.1 ≠ p.2) :=
  ⟨⟨up_due, rfl, rfl⟩, rfl, by decide +kernel, ⟨⟨by decide +kernel, rfl, rfl⟩, by decide⟩, ⟨rfl, rfl⟩,
    acceptable_of (by decide +kernel), by decide +kernel, ⟨⟨by decide +kernel, rfl, rfl⟩, by decide⟩,
    ⟨⟨by decide +kernel, rfl, rfl⟩, (0x01, 0x00), by decide⟩⟩

/-- A settings-store operation under way, with its slot. -/
def storing (work : SettingsWork) : State :=
  { up with op := some { work, running := true, elapsed := 10 }, slotB := some .settings }

theorem witness_settings_ends :
    (storing (.protectBit 63)).op = some { work := .protectBit 63, running := true, elapsed := 10 }
    ∧ (storing (.bootEntry .zero (bootEntryBytes 1 0 3))).op.map (·.running) = some true
    ∧ (storing .lockMark).op.map (·.work) = some .lockMark ∧ (storing .eraseRow).op.map (·.work) = some .eraseRow
    ∧ (storing .eraseBoot).op.map (·.work) = some .eraseBoot ∧ Memory.wf (storing .eraseBoot).boot = true
    ∧ up.row.getLsbD 0 = true ∧ { up with row := 0 }.row.getLsbD 0 = false := by decide

/-! ## Hypotheses met: resets and the scan -/

theorem witness_reset_asserted :
    let s : State := { withBank { activity := .programming sequence .readBack } with mem := [(66051, 0x11)] }
    storePowered s = false ∧ (∀ b q f, (s.bank b).activity = .programming q f → f ≠ .blankCheck → 66053 < lineAddress q.sector
      q.line q.first ∨ lineAddress q.sector q.line q.first + q.values.length ≤ 66053)
    ∧ ∀ b e, (s.bank b).erase = some e → 66053 < e.sector * 65536 ∨ (e.sector + 1) * 65536 ≤ 66053 := by
  refine ⟨rfl, ?_, ?_⟩
  · intro b q f h _
    cases b <;> cases h
    right
    decide
  · intro b e h
    cases b <;> cases h

theorem witness_reset_store :
    (storing (.protectBit 63)).op = some { work := .protectBit 63, running := true, elapsed := 10 }
    ∧ (storing .lockMark).op = some { work := .lockMark, running := true, elapsed := 10 }
    ∧ (storing (.bootEntry .three [1])).op = some { work := .bootEntry .three [1], running := true, elapsed := 10 }
    ∧ (storing .eraseRow).op = some { work := .eraseRow, running := true, elapsed := 10 }
    ∧ (storing .eraseBoot).op = some { work := .eraseBoot, running := true, elapsed := 10 } := by decide

theorem witness_reset_released :
    { up with resetHeld := true, clients := up.clients.set .two { line := true } }.resetHeld = true ∧ up.resetHeld = false :=
  ⟨rfl, rfl⟩

theorem witness_port_reset :
    let resetting : State := { up with clients := up.clients.set .one { line := true, port := { state := .resetting } } }
    let scanning : State := { resetting with scanStage := .scanning }
    { up with resetHeld := true }.resetHeld = true ∧ (resetting.client .one).port.state = .resetting
    ∧ (State.reset.resetHeld = false ∧ (State.reset.client .one).port.state = .starting)
    ∧ (up.client .one).port.state ≠ .resetting ∧ (scanning.client .one).port.state = .resetting
    ∧ scanning.scanStage ≠ .finished ∧ resetting.resetHeld = false ∧ resetting.scanStage = .finished := by decide

theorem witness_port_reset_ready :
    loaded.Canonical ∧ loaded.resetHeld = false ∧ (loaded.client .zero).port.state = .ready
    ∧ ∃ d, d ≠ Four.zero := ⟨canonical_loaded, rfl, rfl, .one, by decide⟩

theorem witness_boot_binding :
    let with' := fun k : BootCopy => { loaded with clients := loaded.clients.set .two { (loaded.client .two) with bootCopy := k } }
    ((with' .blank).client .two).bootCopy = .blank ∧ ((with' .invalid).client .two).bootCopy = .invalid
    ∧ ((with' (.valid 6 1 2)).client .two).bootCopy = .valid 6 1 2
    ∧ (∃ e, newest (with' (.valid 6 1 2)) 6 = some e ∧ 2 ≤ e.2.level)
    ∧ (∃ e, newest (with' (.valid 6 6 3)) 6 = some e ∧ e.2.level < 3)
    ∧ newest (with' (.valid 1 6 2)) 1 = none := by
  refine ⟨rfl, rfl, rfl, ⟨_, rfl, by decide⟩, ⟨_, rfl, by decide⟩, by decide +kernel⟩

/-- A part that scans, at a sector. -/
def scanning (sector : Nat) : State :=
  { State.reset with
    scanStage := .scanning, scanPosition := sector
    banks := State.reset.banks.set (bankOf sector) { activity := .sensing (.scan sector) } }

theorem witness_scan :
    State.reset.scanStage = .readingSettings ∧ State.reset.resetHeld = false
    ∧ (scanning 255).scanStage = .scanning ∧ (scanning 255).resetHeld = false
    ∧ ((scanning 255).bank (bankOf (scanning 255).scanPosition)).activity = .sensing (.scan (scanning 255).scanPosition)
    ∧ headerImage 255 (Memory.readN (scanning 255).mem (255 * 65536) 256) = none
    ∧ (headerImage 255 (headerLine 1 1 255 .exec 1 0)).isSome = true := by decide +kernel

theorem witness_scan_end : State.reset.mgmt.state = .starting ∧ (State.reset.client .zero).port.state = .starting
    ∧ (up.client .zero).port.state ≠ .starting := by decide

/-- A part at the end of its scan: ports 1 and 2 start with a VALID copy of name 6, port 3 with a name no entry holds. -/
def starting : State :=
  { loaded with
    scanStage := .scanning
    clients := ⟨{ bootCopy := .valid 6 0 1 }, { bootCopy := .valid 99 6 2 }, { bootCopy := .valid 99 0 0 },
      { port := { state := .resetting } }⟩ }

theorem witness_starting : Table.wf none starting.dir = true ∧ (starting.client .one).port.state = .starting
    ∧ (newest starting 6).isSome = true := by decide +kernel

/-- Both ports with a VALID copy of name 6 are bound to entry 2, which had one binding; port 3 has BOOT_MISSING (R149). -/
theorem test_scan_end_binds : let t := scanEnds starting
    (t.image 2).map (·.bindings) = some 3 ∧ t.aperture .zero 0 = some { record 2 false with count := 2, boot := true }
    ∧ t.aperture .one 0 = some { record 2 false with count := 2, boot := true } ∧ (t.client .one).level = 2
    ∧ (t.client .two).port = { state := .ready, causes := { bootMissing := true } }
    ∧ t.client .three = starting.client .three := by decide +kernel

/-! ## Hypotheses met: the banks -/

theorem witness_sense : ((withBank { activity := .sensing (.read access) }).bank .zero).activity = .sensing (.read access) := rfl

theorem witness_verify :
    let verifying := fun j : Option Nat => { loaded with banks := loaded.banks.set .zero { activity := .sensing (.verify j 40 1) } }
    ((verifying none).bank .zero).activity = .sensing (.verify none 40 1)
    ∧ ((verifying (some 1)).bank .zero).activity = .sensing (.verify (some 1) 40 1)
    ∧ ((verifying (some 1)).job 1).map (·.work) = some (.verify 4 false 0 crc32Init)
    ∧ ((verifying (some 1)).image 4).map (·.published) = some (some (600, 0)) := by decide

theorem witness_program :
    let programming := fun f : ProgramPhase => withBank { activity := .programming sequence f }
    ((programming .blankCheck).bank .zero).activity = .programming sequence .blankCheck
    ∧ ((programming (.program 1999)).bank .zero).activity = .programming sequence (.program 1999)
    ∧ ((programming .readBack).bank .zero).activity = .programming sequence .readBack
    ∧ (∀ p ∈ (Memory.readN up.mem 66051 2).zip sequence.values, p.1 = 0xFF ∨ p.1 = p.2)
    ∧ Memory.readN up.mem 66051 2 ≠ sequence.values
    ∧ Memory.readN [(66051, 0x11), (66052, 0x22)] 66051 2 = sequence.values
    ∧ (∃ p ∈ (Memory.readN [(66051, 0x10)] 66051 2).zip sequence.values, p.1 ≠ 0xFF ∧ p.1 ≠ p.2)
    ∧ Memory.wf [(66051, 0x11), (66052, 0x22)] = true :=
  ⟨rfl, rfl, rfl, acceptable_of (by decide +kernel), by decide, by decide, ⟨(0x10, 0x11), by decide⟩, by decide⟩

theorem witness_sequence_ends :
    [1, 2, 3, 4, 5, 6, 7, 8].find? (fun n => (loaded.job n).isNone) = some 5 ∧ loaded.image 1 = some opened
    ∧ ProgramOutcome.failed ≠ .done := by decide

theorem witness_newer : opened.name = some 5
    ∧ (∃ e ∈ (loaded.client .zero).apertures, ∃ r, e.2 = some r ∧ r.revoked = false ∧ r.name = 6 ∧ r.generation < 4) :=
  ⟨rfl, (0, some (record 2 false)), by decide, _, rfl, by decide⟩

theorem witness_erase_ends : Memory.wf (erasing 0).mem = true ∧ ((erasing 0).bank .zero).activity = .erasing
    ∧ ((erasing 0).bank .zero).erase = some { sector := 9, job := 3 }
    ∧ ((withBank { activity := .suspending 5, erase := some { sector := 9, job := 3 } }).bank .zero).activity = .suspending 5 := by
  decide

theorem witness_erase_job : (loaded.job 2).map (·.work) = some (.discard 5 2) ∧ (loaded.image 5).isSome = true ∧ 1 < 2 ∧ 1 ≤ 1
    ∧ (loaded.job 3).map (·.work) = some (.erase 200) := by decide

theorem witness_job_end : loaded.Canonical ∧ (loaded.job 3).isSome = true := ⟨canonical_loaded, rfl⟩

theorem witness_suspend :
    let suspended := fun (served : Bool) (waiting : List Access) (claim : Claim) =>
      withBank { erase := some { sector := 9, job := 3, suspended := true, served }, waiting, claim }
    ((withBank { activity := .suspending 20, erase := some { sector := 9, job := 3 } }).bank .zero).activity = .suspending 20
    ∧ (((erasing 100).bank .zero).activity = .erasing ∧ 0 < 100 ∧ 0 + 100 < 2000000)
    ∧ 1999899 + 100 < 2000000
    ∧ (((suspended true [] .none).bank .zero).isFree = true ∧ ((suspended true [] .none).bank .zero).claim = .none)
    ∧ (∀ a ∈ ((suspended false [] .none).bank .zero).waiting, a.isRead = false)
    ∧ (∃ a ∈ ((suspended false [.read access] .none).bank .zero).waiting, a.isRead = true)
    ∧ ((suspended true [] .resume).bank .zero).claim = .resume
    ∧ { suspended true [] .resume with slotA := some (.bank .zero) }.holdsSlot (.bank .zero) = true := by decide

theorem witness_grant :
    let verify : Access := .media (.verifyRead 1 40 1) 0
    let dueVerify : Access := .media (.verifyRead 1 40 1) 8
    let dueErase : Access := .media (.eraseStart 3 9) 8
    ((withBank { activity := .erasing }).bank .zero).isFree = false
    ∧ ((withBank { waiting := [dueVerify] }).bank .zero).waiting.find? (fun a => a.isVerify && a.isDue) = some dueVerify
    ∧ ((withBank { waiting := [dueErase, .read access] }).bank .zero).waiting.any (fun a => a.isSupplyBound && a.isDue) = true
    ∧ (withBank { waiting := [dueErase, .read access] }).holdsSlot (.bank .zero) = false
    ∧ ((withBank { waiting := [verify, .read access] }).bank .zero).waiting.find? Access.isRead = some (.read access)
    ∧ ((withBank { waiting := [verify] }).bank .zero).waiting.any Access.isRead = false
    ∧ ((withBank { waiting := [verify] }).bank .zero).waiting.find? Access.isVerify = some verify
    ∧ ((withBank { erase := some { sector := 9, job := 3, suspended := true } }).bank .zero).erase.isSome = true
    ∧ up.claims = [] ∧ { up with claims := [.settings] }.claims = [.settings] ∧ up.slotA = none
    ∧ { up with slotA := some .settings, slotB := some (.bank .one) }.slotA ≠ none := by decide

theorem witness_grants :
    let hit := withBank { activity := .lineOpen, openLine := some (20, 1), waiting := [.media (.verifyRead 1 40 1) 8, .read access] }
    access.dropped = false ∧ (hit.bank .zero).openLine = some (access.sector, access.line)
    ∧ (hit.bank .zero).openLine ≠ some (40, 1) ∧ (up.bank .zero).openLine ≠ some (access.sector, access.line)
    ∧ ((erasing 0).bank .zero).isFree = false ∧ up.holdsSlot (.bank .zero) = false
    ∧ (start (claiming (.program sequence)) .zero).isSome = true ∧ (due (claiming (.program sequence))).isSome = true
    ∧ settingsStart { up with claims := [.settings] } = none ∧ (grantSlot { up with claims := [.settings] }).isSome = true
    ∧ (∀ b ∈ Four.all, start hit b = none) ∧ settingsStart hit = none ∧ grantSlot hit = none
    ∧ (∀ b ∈ Four.all, lodgeResume hit b = none) ∧ (grant hit .zero).isSome = true := by decide +kernel

/-- A read granted ahead of a media access raises its credit by 1, but not under an erase context (R73). -/
theorem test_credit :
    let waiting : List Access := [.media (.eraseStart 3 9) 7, .read access]
    ((grantRead .zero access (withBank { waiting })).bank .zero).waiting = [.media (.eraseStart 3 9) 8]
    ∧ ((grantRead .zero access (withBank { waiting, erase := some { sector := 9, job := 3, suspended := true } })).bank
        .zero).waiting = [.media (.eraseStart 3 9) 7] := by decide

theorem witness_events_that_cannot_come :
    (∀ a, (up.bank .zero).activity ≠ .sensing (.read a)) ∧ (∀ j m n, (up.bank .zero).activity ≠ .sensing (.verify j m n))
    ∧ (∀ q, ((erasing 0).bank .zero).activity ≠ .programming q .blankCheck)
    ∧ (∀ q n, ((withBank { activity := .programming sequence .readBack }).bank .zero).activity ≠ .programming q (.program n))
    ∧ (∀ q, ((withBank { activity := .programming sequence .blankCheck }).bank .zero).activity ≠ .programming q .readBack)
    ∧ (∀ n, ((erasing 0).bank .zero).activity ≠ .suspending n)
    ∧ (∀ e, ((erasing 0).bank .zero).erase = some e → e.lockout = 0) ∧ (up.bank .zero).activity ≠ .erasing
    ∧ (∀ o, (storing .eraseRow).op = some o → o.work.isErase = true) ∧ (∀ o, (storing .lockMark).op = some o → o.work.isErase = false)
    ∧ up.scanStage ≠ .readingSettings ∧ up.scanStage ≠ .scanning := by
  refine ⟨nofun, nofun, nofun, ?_, nofun, nofun, ?_, by decide, ?_, ?_, by decide, by decide⟩
  · intro q n h; cases h
  · rintro e ⟨⟩; rfl
  · rintro o ⟨⟩; rfl
  · rintro o ⟨⟩; rfl

/-! ## Hypotheses met: what every step keeps -/

theorem witness_flash_unchanged : ∃ t, exec (.wpChange false) up = .next t ∧ Instr.wpChange false ≠ .powerOn :=
  ⟨_, rfl, by decide⟩

theorem ports_legal_loaded : loaded.PortsLegal := by
  have unit : ∀ u : PortUnit, u = { state := .ready } → u.Legal := by
    rintro _ rfl
    constructor <;> simp
  refine ⟨unit _ rfl, by decide, fun c => ?_, nofun⟩
  cases c <;> exact ⟨unit _ rfl, fun h => absurd rfl h, fun h => absurd rfl h, nofun⟩

theorem levels_legal_loaded : loaded.LevelsLegal := fun c => by cases c <;> decide

theorem banks_legal_erasing : (erasing 100).BanksLegal := by
  intro b
  have idle : ∀ k : Bank, k = {} → k.Legal := by
    rintro _ rfl
    exact ⟨nofun, fun _ => rfl, nofun, by simp, nofun, nofun⟩
  cases b
  · exact ⟨nofun, fun _ => rfl, nofun, fun _ => ⟨_, rfl, rfl⟩, nofun, fun e h => by cases h; decide⟩
  all_goals exact idle _ rfl

theorem supplied_erasing : (erasing 100).Supplied := ⟨fun b => by cases b <;> decide, by decide⟩

theorem locked_up : { up with boot := [(64, 0)], lockInForce := true }.Locked := ⟨by decide, rfl, nofun⟩

theorem witness_invariants :
    (∃ t, step loaded = .next t) ∧ loaded.Canonical ∧ loaded.PortsLegal ∧ loaded.LevelsLegal ∧ (erasing 100).BanksLegal
    ∧ (erasing 100).Supplied ∧ { up with boot := [(64, 0)], lockInForce := true }.Locked
    ∧ { up with boot := [(64, 0)], lockInForce := true }.Canonical :=
  ⟨⟨_, rfl⟩, canonical_loaded, ports_legal_loaded, levels_legal_loaded, banks_legal_erasing, supplied_erasing, locked_up,
    ⟨rfl, by decide, rfl, rfl, rfl, fun c => by cases c <;> rfl⟩⟩

end Sys2Proof.Tests
end

/-! # Resolution of names (R17, R18): the statements O15 and O16

Both resolutions search the entries of a name. `mem_namedEntries` says once which entries these are in a canonical
directory; newest resolution is then the greatest member of a list, and pinned resolution a member found by a test. -/

namespace Sys2Proof.Proofs.Resolution

open Sys2Proof Sys2Proof.Machine

section
variable {s t : State} {n : Word32} {g : Nat} {e : Nat × Image}

/-! ## The entries of a name -/

/-- The entries listed for a name are those whose image holds the name. -/
theorem mem_namedEntries (hw : Table.wf none s.dir = true) :
    e ∈ namedEntries s n ↔ s.image e.1 = some e.2 ∧ e.2.name = some n := by
  obtain ⟨i, im⟩ := e
  simp only [namedEntries, List.mem_filterMap, State.image]
  constructor
  · rintro ⟨⟨j, o⟩, hmem, hsome⟩
    cases o with
    | none => cases hsome
    | some jm =>
      by_cases hname : jm.name = some n
      · simp only [hname, if_true, Option.some.injEq, Prod.mk.injEq] at hsome
        obtain ⟨rfl, rfl⟩ := hsome
        exact ⟨(Table.get_of_mem hw hmem).1, hname⟩
      · simp [hname] at hsome
  · rintro ⟨himage, hname⟩
    exact ⟨(i, some im), Table.mem_of_get himage, by simp [hname]⟩

/-- The entries among which newest resolution chooses are the READY ones of the name. -/
theorem mem_ready_namedEntries (hw : Table.wf none s.dir = true) :
    e ∈ (namedEntries s n).filter (fun e => e.2.state == .ready)
      ↔ s.image e.1 = some e.2 ∧ e.2.name = some n ∧ e.2.state = .ready := by
  simp only [List.mem_filter, mem_namedEntries hw, beq_iff_eq, and_assoc]

/-- The entries of a name are read from the directory alone. -/
theorem namedEntries_congr (h : t.dir = s.dir) (n : Word32) : namedEntries t n = namedEntries s n := by
  rw [namedEntries, h, namedEntries]

/-! ## The entry of greatest generation in a list -/

/-- Of two entries the newer one is one of them, and neither generation is greater than its. -/
theorem newerOf_some (b a : Nat × Image) : ∃ c, newerOf (some b) a = some c ∧ (c = b ∨ c = a)
    ∧ b.2.generation ≤ c.2.generation ∧ a.2.generation ≤ c.2.generation := by
  by_cases hlt : b.2.generation < a.2.generation
  · exact ⟨a, by simp [newerOf, hlt], Or.inr rfl, Nat.le_of_lt hlt, Nat.le_refl _⟩
  · exact ⟨b, by simp [newerOf, hlt], Or.inl rfl, Nat.le_refl _, Nat.le_of_not_lt hlt⟩

/-- The fold of a list that begins with `b` finds a member of greatest generation. -/
theorem foldl_newerOf_some (l : List (Nat × Image)) (b : Nat × Image) : ∃ e, l.foldl newerOf (some b) = some e
    ∧ e ∈ b :: l ∧ ∀ x ∈ b :: l, x.2.generation ≤ e.2.generation := by
  induction l generalizing b with
  | nil => exact ⟨b, rfl, List.mem_singleton_self b, fun x hx => by cases List.mem_singleton.mp hx; exact Nat.le_refl _⟩
  | cons a l ih =>
    obtain ⟨c, hc, hcmem, hbc, hac⟩ := newerOf_some b a
    obtain ⟨e, he, hemem, hmax⟩ := ih c
    have hce : c.2.generation ≤ e.2.generation := hmax c List.mem_cons_self
    refine ⟨e, by rw [List.foldl_cons, hc, he], ?_, ?_⟩
    · rcases List.mem_cons.mp hemem with rfl | hl
      · rcases hcmem with rfl | rfl <;> simp
      · simp [hl]
    · intro x hx
      rcases List.mem_cons.mp hx with rfl | hx
      · exact Nat.le_trans hbc hce
      · rcases List.mem_cons.mp hx with rfl | hx
        · exact Nat.le_trans hac hce
        · exact hmax x (List.mem_cons_of_mem _ hx)

/-- The fold of a list finds nothing exactly in the empty list. -/
theorem foldl_newerOf_eq_none {l : List (Nat × Image)} : l.foldl newerOf none = none ↔ l = [] := by
  cases l with
  | nil => simp
  | cons a l =>
    obtain ⟨e, he, -, -⟩ := foldl_newerOf_some l a
    simp [newerOf, he]

/-- What the fold of a list finds is a member of greatest generation. -/
theorem foldl_newerOf_greatest {l : List (Nat × Image)} (h : l.foldl newerOf none = some e) :
    e ∈ l ∧ ∀ x ∈ l, x.2.generation ≤ e.2.generation := by
  cases l with
  | nil => cases h
  | cons a l =>
    obtain ⟨e', he', hmem, hmax⟩ := foldl_newerOf_some l a
    obtain rfl : e' = e := Option.some.inj (he'.symm.trans h)
    exact ⟨hmem, hmax⟩

/-! ## Newest resolution (R17) -/

/-- Newest resolution finds a READY entry of the name, of the greatest generation among them. -/
theorem newest_eq_some (hw : Table.wf none s.dir = true) (h : newest s n = some e) :
    (s.image e.1 = some e.2 ∧ e.2.name = some n ∧ e.2.state = .ready)
    ∧ ∀ j jm, s.image j = some jm → jm.name = some n → jm.state = .ready → jm.generation ≤ e.2.generation := by
  obtain ⟨hmem, hmax⟩ := foldl_newerOf_greatest h
  exact ⟨(mem_ready_namedEntries hw).mp hmem, fun j jm himage hname hready =>
    hmax (j, jm) ((mem_ready_namedEntries hw).mpr ⟨himage, hname, hready⟩)⟩

/-- Newest resolution finds nothing exactly when no READY entry holds the name. -/
theorem newest_eq_none (hw : Table.wf none s.dir = true) :
    newest s n = none ↔ ∀ j jm, s.image j = some jm → jm.name = some n → jm.state ≠ .ready := by
  rw [newest, foldl_newerOf_eq_none, List.eq_nil_iff_forall_not_mem]
  simp only [mem_ready_namedEntries hw, not_and, Prod.forall]

/-- Newest resolution reads the directory alone. -/
theorem newest_congr (h : t.dir = s.dir) (n : Word32) : newest t n = newest s n := by
  simp only [newest, namedEntries_congr h]

/-! ## Pinned resolution (R18) -/

/-- Pinned resolution finds a READY entry of the name and generation. -/
theorem pinned_eq_some (hw : Table.wf none s.dir = true) (h : pinned s n g = some e) :
    s.image e.1 = some e.2 ∧ e.2.name = some n ∧ e.2.generation = g ∧ e.2.state = .ready := by
  obtain ⟨himage, hname⟩ := (mem_namedEntries hw).mp (List.mem_of_find?_eq_some h)
  have htest := List.find?_some h
  simp only [Bool.and_eq_true, beq_iff_eq] at htest
  exact ⟨himage, hname, htest⟩

/-- Pinned resolution finds nothing exactly when no READY entry holds the name and generation. -/
theorem pinned_eq_none (hw : Table.wf none s.dir = true) :
    pinned s n g = none ↔ ∀ i im, s.image i = some im → im.name = some n → im.generation = g → im.state ≠ .ready := by
  simp only [pinned, List.find?_eq_none, mem_namedEntries hw, Bool.and_eq_true, beq_iff_eq, not_and, and_imp, Prod.forall,
    ne_eq]

/-- Pinned resolution reads the directory alone. -/
theorem pinned_congr (h : t.dir = s.dir) (n : Word32) (g : Nat) : pinned t n g = pinned s n g := by
  simp only [pinned, namedEntries_congr h]

/-! ## The resolution of a BIND (R33) -/

@[simp] theorem resolve_zero (s : State) (n : Word32) : resolve s n 0 = newest s n := if_pos rfl

theorem resolve_of_ne_zero (hg : g ≠ 0) : resolve s n g = pinned s n g := if_neg hg

/-- The resolution of a BIND reads the directory alone. -/
theorem resolve_congr (h : t.dir = s.dir) (n : Word32) (g : Nat) : resolve t n g = resolve s n g := by
  simp only [resolve, newest_congr h, pinned_congr h]

/-! ## BIND and DESCRIBE at a client port that attends -/

@[simp] theorem serving_dir (p : Port) (tag : Byte) (r : Request) : (serving p tag r s).dir = s.dir :=
  setPort_dir s p _

variable {c : ClientId} {ap : Nat}

theorem exec_bind_attends (h : s.Attends (.client c)) (tag : Byte) (ap : Nat) (n : Word32) (g : Nat) :
    exec (.bind c tag ap n g) s = .next (takeBind c ap n g (serving (.client c) tag (.bind ap n g) s)) :=
  congrArg Host.Outcome.next (arrive_attends h tag (.bind ap n g))

theorem exec_describe_attends (h : s.Attends (.client c)) (tag : Byte) (ap : Nat) :
    exec (.describe c tag ap) s = .next (takeDescribe c ap (serving (.client c) tag (.describe ap) s)) :=
  congrArg Host.Outcome.next (arrive_attends h tag (.describe ap))

/-- A BIND of an EMPTY aperture whose name and generation resolve to no entry is refused NO_ENTRY, and nothing else
changes (R33). -/
theorem exec_bind_noEntry (h : s.Attends (.client c)) (tag : Byte) (hap : ap ≤ 7) (hempty : s.aperture c ap = none)
    (hres : resolve s n g = none) :
    exec (.bind c tag ap n g) s = .next (answered (.client c) tag (.bind ap n g) .noEntry [] s) := by
  have hres' : resolve (serving (.client c) tag (.bind ap n g) s) n g = none := by
    rw [resolve_congr (serving_dir _ _ _), hres]
  rw [exec_bind_attends h, takeBind, if_neg (Nat.not_lt.mpr hap)]
  simp only [serving_aperture, hempty, Option.isSome_none, Bool.false_eq_true, if_false, hres', respond_attends h]

theorem newestGeneration_of_none {r : Aperture} (h : newest s r.name = none) : newestGeneration s (some r) = 0 := by
  simp [newestGeneration, h]

theorem newestGeneration_of_some {r : Aperture} (h : newest s r.name = some e) :
    newestGeneration s (some r) = e.2.generation := by
  simp [newestGeneration, h]

/-- The report of an aperture reads the directory alone. -/
theorem apertureReport_congr (h : t.dir = s.dir) (level : Nat) (o : Option Aperture) :
    apertureReport t level o = apertureReport s level o := by
  simp only [apertureReport, newestGeneration, newest_congr h]

/-- The report of an aperture ends with the generation newest resolution finds, and the port's level (R39). -/
theorem apertureReport_ends (s : State) (level : Nat) (o : Option Aperture) :
    ∃ front, apertureReport s level o = front ++ be 2 (newestGeneration s o) ++ be 1 level := ⟨_, rfl⟩

/-- A DESCRIBE of an aperture in range answers its report, and nothing else changes (R39). -/
theorem exec_describe_ok (h : s.Attends (.client c)) (tag : Byte) (hap : ap ≤ 7) :
    exec (.describe c tag ap) s = .next (answered (.client c) tag (.describe ap) .ok
      (apertureReport s (s.client c).level (s.aperture c ap)) s) := by
  rw [exec_describe_attends h, takeDescribe, if_neg (Nat.not_lt.mpr hap), respond_attends h, serving_level,
    serving_aperture, apertureReport_congr (serving_dir _ _ _)]

end

/-! ## The statements -/

/-- Settles O15: the fold of newest resolution finds a greatest member of the READY entries of the name, and DESCRIBE's
report ends with the generation found. -/
theorem newestResolutionFindsTheGreatestReady : Obligations.NewestResolutionFindsTheGreatestReady := by
  intro s n hw
  refine ⟨fun i im hnew => ?found, newest_eq_none hw, fun hnone => ?zero, fun huniq i im j jm hnew hj hjn _ hgen => ?only,
    fun c tag ap r hatt hap hrec hname => ?describe⟩
  case found =>
    obtain ⟨⟨himage, hname, hready⟩, hmax⟩ := newest_eq_some hw hnew
    exact ⟨himage, hname, hready, hmax⟩
  case zero => exact (newest_eq_none hw).mpr fun j jm hj hjn => absurd hjn (hnone j jm hj)
  case only =>
    obtain ⟨⟨himage, hname, -⟩, -⟩ := newest_eq_some hw hnew
    exact huniq j i jm im hj himage hjn hname hgen
  case describe =>
    subst hname
    obtain ⟨front, hfront⟩ := apertureReport_ends s (s.client c).level (some r)
    refine ⟨front, ?_⟩
    rw [exec_describe_ok hatt tag hap, hrec, hfront]
    cases hnew : newest s r.name with
    | none => rw [newestGeneration_of_none hnew]
    | some e => rw [newestGeneration_of_some hnew]

/-- Settles O16: the test of pinned resolution is the READY state and the generation, over the entries of the name; a BIND
that resolves to no entry is refused by its third check. -/
theorem pinnedResolutionFindsThatGeneration : Obligations.PinnedResolutionFindsThatGeneration := by
  intro s n g hw
  exact ⟨fun i im => pinned_eq_some hw, pinned_eq_none hw, resolve_zero s n, resolve_of_ne_zero,
    fun c ap tag hatt hap hempty hres => exec_bind_noEntry hatt tag hap hempty hres⟩

end Sys2Proof.Proofs.Resolution

/-! # The checks of ABANDON (R102): the statement O27

The take of ABANDON is said once, per check, of any state: which refusal it answers. At a port that attends, the state it is
taken in has the jobs of the state before, and the response to it leaves that state as it was but for the response. -/

namespace Sys2Proof.Proofs.Abandon

open Sys2Proof Sys2Proof.Machine

section
variable {s : State} {n : Nat} {j : Job}

/-! ## The take, per check -/

/-- The first check: the number is that of no job slot. -/
theorem takeAbandon_of_not_slot (hn : ¬ (1 ≤ n ∧ n ≤ 8)) : takeAbandon n s = respond .mgmt .range [] s :=
  if_pos (by rw [← Bool.decide_and, decide_eq_false hn]; rfl)

/-- The second check: the slot has no job. -/
theorem takeAbandon_of_job_none (hn : 1 ≤ n ∧ n ≤ 8) (hj : s.job n = none) :
    takeAbandon n s = respond .mgmt .noJob [] s := by
  simp [takeAbandon, hn, hj]

/-- The third check: the job is no VERIFY. -/
theorem takeAbandon_of_kind_ne_verify (hn : 1 ≤ n ∧ n ≤ 8) (hj : s.job n = some j) (hk : j.work.kind ≠ .verify) :
    takeAbandon n s = respond .mgmt .notAbandonable [] s := by
  cases hw : j.work with
  | verify => exact absurd (by rw [hw, JobWork.kind]) hk
  | discard => simp [takeAbandon, hn, hj, hw]
  | erase => simp [takeAbandon, hn, hj, hw]

/-- The fourth check: the job is a VERIFY in its MARKING phase. -/
theorem takeAbandon_of_marking {i checked : Nat} {crc : Word32} (hn : 1 ≤ n ∧ n ≤ 8) (hj : s.job n = some j)
    (hw : j.work = .verify i true checked crc) : takeAbandon n s = respond .mgmt .notAbandonable [] s := by
  simp [takeAbandon, hn, hj, hw]

/-! ## ABANDON at a management port that attends -/

/-- The jobs are those of the state before, while a port serves. -/
@[simp] theorem serving_job (p : Port) (tag : Byte) (r : Request) (n : Nat) : (serving p tag r s).job n = s.job n := by
  rw [State.job, serving, setPort_jobs, State.job]

theorem exec_abandon_attends (h : s.Attends .mgmt) (tag : Byte) (n : Nat) :
    exec (.abandon tag n) s = .next (takeAbandon n (serving .mgmt tag (.abandon n) s)) :=
  congrArg Host.Outcome.next (arrive_attends h tag (.abandon n))

/-- A refusal at the take is the status alone: nothing else changes. -/
theorem exec_abandon_refused {st : Status} (h : s.Attends .mgmt) (tag : Byte)
    (htake : takeAbandon n (serving .mgmt tag (.abandon n) s) = respond .mgmt st [] (serving .mgmt tag (.abandon n) s)) :
    exec (.abandon tag n) s = .next (answered .mgmt tag (.abandon n) st [] s) := by
  rw [exec_abandon_attends h, htake, respond_attends h]

end

/-! ## The statement -/

/-- Settles O27: each check's failure is the take's refusal, in a state with the jobs of the state before. -/
theorem abandonChecksInOrder : Obligations.AbandonChecksInOrder := by
  intro tag n s hatt
  refine ⟨fun hn => ?range, fun hn hj => ?noJob, fun j hn hj hk => ?kind, fun j i checked crc hn hj hw => ?marking⟩
  case range => exact exec_abandon_refused hatt tag (takeAbandon_of_not_slot hn)
  case noJob => exact exec_abandon_refused hatt tag (takeAbandon_of_job_none hn (by rw [serving_job, hj]))
  case kind => exact exec_abandon_refused hatt tag (takeAbandon_of_kind_ne_verify hn (by rw [serving_job, hj]) hk)
  case marking => exact exec_abandon_refused hatt tag (takeAbandon_of_marking hn (by rw [serving_job, hj]) hw)

end Sys2Proof.Proofs.Abandon

/-! # POLL and the attention output (R170 to R172): the statement O12

The list of a cause set is the fixed priority order with the absent causes left out, so that it names each cause once and
taking a cause out of the set erases it from the list. POLL is then said of the list: of the empty one, and of one with a
head, which is the cause it takes. -/

namespace Sys2Proof.Proofs.Poll

open Sys2Proof Sys2Proof.Machine

/-! ## Cause sets (R170) -/

section
variable {u : CauseSet} {k j : Cause} {rest : List Cause}

theorem mem_all (k : Cause) : k ∈ Cause.all := by cases k <;> decide

theorem all_nodup : Cause.all.Nodup := by decide

/-- What a set holds after one cause is put in or taken out: that cause as put, and every other as before. -/
theorem has_put (u : CauseSet) (k j : Cause) (v : Bool) : (u.put k v).has j = if j = k then v else u.has j := by
  cases k <;> cases j <;> rfl

/-- The list of a set names the causes that the set holds. -/
theorem mem_list : k ∈ u.list ↔ u.has k = true := by
  simp only [CauseSet.list, List.mem_filter, mem_all, true_and]

theorem list_sublist (u : CauseSet) : u.list.Sublist Cause.all := List.filter_sublist

theorem list_nodup (u : CauseSet) : u.list.Nodup := all_nodup.sublist (list_sublist u)

/-- To take a cause out of a set is to erase it from the list, the order of the others kept. -/
theorem list_put_false (u : CauseSet) (k : Cause) : (u.put k false).list = u.list.erase k := by
  rw [(list_nodup u).erase_eq_filter, CauseSet.list, CauseSet.list, List.filter_filter]
  refine List.filter_congr fun j _ => ?_
  rw [has_put]
  by_cases hj : j = k <;> simp [hj]

/-- A set without its cause of highest priority lists the rest. -/
theorem list_put_false_of_cons (h : u.list = k :: rest) : (u.put k false).list = rest := by
  rw [list_put_false, h, List.erase_cons_head]

/-! ## The attention output (R172) -/

/-- The attention output is asserted exactly while the set holds a cause. -/
theorem attention_iff (u : PortUnit) : u.attention = true ↔ ∃ k, u.causes.has k = true := by
  simp only [PortUnit.attention, Bool.not_eq_true', List.isEmpty_eq_false_iff_exists_mem, mem_list]

/-! ## What POLL removes and answers (R171) -/

theorem polled_of_nil (h : u.list = []) : u.polled = u := by
  simp only [CauseSet.polled, h]

theorem polled_of_cons (h : u.list = k :: rest) : u.polled = u.put k false := by
  simp only [CauseSet.polled, h]

theorem pollResults_of_nil (h : u.list = []) : pollResults u = [0x00, 0x00, 0x00] := by
  simp only [pollResults, h]; rfl

theorem pollResults_of_cons (h : u.list = k :: rest) :
    pollResults u = k.code :: (be 2 rest.length ++ rest.map Cause.code) := by
  simp only [pollResults, h, listOf, List.map_eq_flatMap]

/-- After a POLL the set holds a cause exactly when it held two before: of two causes, one is not the cause removed. -/
theorem exists_has_polled (u : CauseSet) :
    (∃ j, u.polled.has j = true) ↔ ∃ k j, k ≠ j ∧ u.has k = true ∧ u.has j = true := by
  cases hl : u.list with
  | nil =>
    have hnone (j : Cause) : u.has j ≠ true := by simp [← mem_list, hl]
    simp [polled_of_nil hl, hnone]
  | cons c rest =>
    have hc : u.has c = true := mem_list.mp (by simp [hl])
    have hleft (j : Cause) : u.polled.has j = true ↔ j ≠ c ∧ u.has j = true := by
      by_cases hj : j = c <;> simp [polled_of_cons hl, has_put, hj]
    simp only [hleft]
    constructor
    · rintro ⟨j, hj, hheld⟩
      exact ⟨c, j, hj.symm, hc, hheld⟩
    · rintro ⟨k, j, hkj, hk, hj⟩
      by_cases hkc : k = c
      · exact ⟨j, fun hjc => hkj (hkc.trans hjc.symm), hj⟩
      · exact ⟨k, hkc, hk⟩

end

/-! ## POLL at a port that attends -/

section
variable {s : State} {p : Port}

/-- A response placed on the link output leaves the cause set. -/
@[simp] theorem causes_place (u : PortUnit) (r : Response) : (u.place r).causes = u.causes := by
  unfold PortUnit.place; split <;> rfl

/-- The port that is answered keeps its cause set. -/
@[simp] theorem causes_answered (p : Port) (tag : Byte) (r : Request) (st : Status) (results : List Byte) (s : State) :
    ((answered p tag r st results s).port p).causes = (s.port p).causes := by
  rw [answered, port_setPort_same, causes_place]

theorem takeRequest_poll (p : Port) (s : State) : takeRequest p .poll s = takePoll p s := by cases p <;> rfl

/-- The take of POLL at a port that attends: the set loses its cause of highest priority, and the response leaves. -/
theorem takePoll_serving (h : s.Attends p) (tag : Byte) :
    takePoll p (serving p tag .poll s) = answered p tag .poll .ok (pollResults (s.port p).causes)
      (s.setPort p { s.port p with causes := (s.port p).causes.polled }) := by
  rw [takePoll, respond_serving (u := { s.port p with causes := (s.port p).causes.polled }) (tag := tag) (r := .poll)
    (by rw [port_setPort_same, serving_port]) h.queue h.service]
  simp only [answered, serving, setPort_setPort, port_setPort_same]

/-- POLL at a port that attends, whatever the set holds. -/
theorem exec_poll_attends (h : s.Attends p) (tag : Byte) :
    exec (.poll p tag) s = .next (answered p tag .poll .ok (pollResults (s.port p).causes)
      (s.setPort p { s.port p with causes := (s.port p).causes.polled })) :=
  congrArg Host.Outcome.next (by rw [arrive_attends h, takeRequest_poll, takePoll_serving h])

/-- POLL of an empty set answers NONE, and changes nothing but the link output. -/
theorem exec_poll_of_nil (h : s.Attends p) (tag : Byte) (hl : (s.port p).causes.list = []) :
    exec (.poll p tag) s = .next (answered p tag .poll .ok [0x00, 0x00, 0x00] s) := by
  rw [exec_poll_attends h, pollResults_of_nil hl, polled_of_nil hl, setPort_port]

/-- POLL of a set that holds a cause takes the cause of highest priority, and answers it with the rest. -/
theorem exec_poll_of_cons (h : s.Attends p) (tag : Byte) {k : Cause} {rest : List Cause}
    (hl : (s.port p).causes.list = k :: rest) :
    exec (.poll p tag) s = .next (answered p tag .poll .ok (k.code :: (be 2 rest.length ++ rest.map Cause.code))
      (s.setPort p { s.port p with causes := (s.port p).causes.put k false })) := by
  rw [exec_poll_attends h, pollResults_of_cons hl, polled_of_cons hl]

/-- After a POLL the attention output is asserted exactly when the set held two causes before. -/
theorem attention_after_poll (p : Port) (tag : Byte) (results : List Byte) (s : State) :
    ((answered p tag .poll .ok results
        (s.setPort p { s.port p with causes := (s.port p).causes.polled })).port p).attention = true
      ↔ ∃ k j : Cause, k ≠ j ∧ (s.port p).causes.has k = true ∧ (s.port p).causes.has j = true := by
  rw [attention_iff, causes_answered, port_setPort_same, exists_has_polled]

end

/-! ## The statement -/

/-- Settles O12: POLL is said of the list of the set, empty or with a head, and the attention output of the set that the
take leaves. -/
theorem pollTakesTheHighestCause : Obligations.PollTakesTheHighestCause := by
  intro p tag s hatt
  exact ⟨fun _ => mem_list, list_sublist _, exec_poll_of_nil hatt tag,
    fun _ _ hl => ⟨list_put_false_of_cons hl, exec_poll_of_cons hatt tag hl⟩,
    has_put, attention_iff, _, exec_poll_attends hatt tag, attention_after_poll p tag _ s⟩

end Sys2Proof.Proofs.Poll

/-! # Rules that several proofs share

What a request row does at a port that attends, what the state reads while a port serves, and what an entry or a table of
apertures reads after a change. -/

namespace Sys2Proof.Proofs.Rules

open Sys2Proof Sys2Proof.Machine

section
variable {s t : State} {p : Port} {c : Instr} {tag : Byte} {r : Request}

/-! ## Request rows -/

/-- The row of a request is the arrival of that request at its port (log 1). -/
theorem exec_request (h : requestOf c = some (p, tag, r)) (s : State) : exec c s = .next (arrive p tag r s) := by
  cases c <;> simp only [requestOf, Option.some.injEq, Prod.mk.injEq, reduceCtorEq] at h <;> obtain ⟨rfl, rfl, rfl⟩ := h <;>
    rfl

/-- The row of a request at a port that attends is its take (R164, R167). -/
theorem exec_attends (h : requestOf c = some (p, tag, r)) (ha : s.Attends p) :
    exec c s = .next (takeRequest p r (serving p tag r s)) := by
  rw [exec_request h, arrive_attends ha]

/-- Whether a port attends is read from the RESET line and its record. -/
theorem attends_congr (h : s.Attends p) (hheld : t.resetHeld = s.resetHeld) (hport : t.port p = s.port p) : t.Attends p := by
  obtain ⟨h1, h2, h3, h4, h5, h6⟩ := h
  exact ⟨hheld ▸ h1, hport ▸ h2, hport ▸ h3, hport ▸ h4, hport ▸ h5, hport ▸ h6⟩

/-- The response to a request in service at a port that attended: what the take changed before stays. -/
theorem respond_of_serving {u : State} (h : s.Attends p) (hu : u = serving p tag r t) (hheld : t.resetHeld = s.resetHeld)
    (hport : t.port p = s.port p) (st : Status) (results : List Byte) :
    respond p st results u = answered p tag r st results t := by
  rw [hu, respond_attends (attends_congr h hheld hport)]

/-! ## Entries -/

/-- What the directory reads after an entry's image changes (R1). -/
theorem image_updImage (hw : Table.wf none s.dir = true) (i j : Nat) (f : Image → Image) :
    (s.updImage i f).image j = if j = i then (s.image j).map f else s.image j := by
  unfold State.updImage
  split
  · rename_i im him
    rw [Kept.image_setImage hw]
    split
    · rename_i e; rw [e, him]; rfl
    · rfl
  · rename_i hnone
    split
    · rename_i e; rw [e, hnone]; rfl
    · rfl

theorem wf_dir_updImage (hw : Table.wf none s.dir = true) (i : Nat) (f : Image → Image) :
    Table.wf none (s.updImage i f).dir = true := by
  unfold State.updImage
  split
  · exact Table.wf_put hw
  · exact hw

/-! ## BOUND records -/

/-- How many records are BOUND to an entry after one aperture changes. -/
theorem totalBound_setAperture (hw : ∀ d, Table.wf none (s.client d).apertures = true) (i : Nat) (c : ClientId) (ap : Nat)
    (v : Option Aperture) :
    totalBound i (setAperture c ap v s) + (if boundTo i (s.aperture c ap) = true then 1 else 0)
      = totalBound i s + (if boundTo i v = true then 1 else 0) := by
  have htotal : totalBound i (setAperture c ap v s) + boundIn i (s.client c).apertures
      = totalBound i s + boundIn i (Table.put none (s.client c).apertures ap v) := Kept.total_setClient ..
  have htable : boundIn i (Table.put none (s.client c).apertures ap v)
      + (if boundTo i (s.aperture c ap) = true then 1 else 0)
      = boundIn i (s.client c).apertures + (if boundTo i v = true then 1 else 0) := boundIn_put i (lo := 0) ap v (hw c)
  omega

theorem boundTo_none (i : Nat) : boundTo i none = false := rfl

theorem boundTo_some (i : Nat) (r : Aperture) : boundTo i (some r) = (!r.revoked && r.entry == i) := rfl

theorem boundTo_boundRecord (i : Nat) (e : Nat × Image) (boot : Bool) :
    boundTo i (some (boundRecord e boot)) = (e.1 == i) := Bool.true_and _

end

end Sys2Proof.Proofs.Rules

/-! # What every step keeps: the statements O56, O57, O58, O59 and O60

`step_acts` gives every step as a chain of elementary changes. An invariant that does not look at the queue of waiting
commands is kept by every step once each elementary change keeps it (`step_keeps`). -/

namespace Sys2Proof.Proofs.Invariants

open Sys2Proof Sys2Proof.Machine

section
variable {s t : State}

/-! ## Steps as chains of elementary changes -/

/-- A property that every elementary change keeps, and that does not look at the queue of waiting commands, is kept by
every step. -/
theorem step_keeps {P : State → Prop} (hpending : ∀ u l, P u → P { u with pending := l })
    (hact : ∀ u v, Act u v → P u → P v) (hs : P s) (h : step s = .next t) : P t :=
  (step_acts s t h).keeps hact (hpending s _ hs)

/-- The two slots after the arbiter grants one: the claimant granted had a free slot, and nobody loses one. -/
theorem grantSlot_eq (h : grantSlot s = some t) : ∃ a b l, t = { s with slotA := a, slotB := b, claims := l }
    ∧ ∀ c, s.holdsSlot c = true → t.holdsSlot c = true := by
  unfold grantSlot at h
  split at h
  · cases h
  · split at h
    · rename_i hA
      refine ⟨_, _, _, (Option.some.inj h).symm, fun c hc => ?_⟩
      rw [← Option.some.inj h]
      simp only [State.holdsSlot, hA, Bool.or_eq_true] at hc ⊢
      exact Or.inr (hc.resolve_left (by simp))
    · split at h
      · rename_i hB
        refine ⟨_, _, _, (Option.some.inj h).symm, fun c hc => ?_⟩
        rw [← Option.some.inj h]
        simp only [State.holdsSlot, hB, Bool.or_eq_true] at hc ⊢
        exact Or.inl (hc.resolve_right (by simp))
      · cases h

/-- Reading the copies changes the working copy of the row, or the lock and the boot-entry copies. -/
theorem refresh_eq (w : SettingsWork) (s : State) : w.refresh s = refreshRow s ∨ w.refresh s = refreshBoot s := by
  cases w
  · exact Or.inl rfl
  · exact Or.inl rfl
  · exact Or.inr rfl
  · exact Or.inr rfl
  · exact Or.inr rfl

@[simp] theorem apertures_setPort (p : Port) (u : PortUnit) (c : ClientId) :
    ((s.setPort p u).client c).apertures = (s.client c).apertures := by
  rw [client_setPort]; split <;> rfl

@[simp] theorem apertures_setLine (c d : ClientId) (v : Bool) :
    ((setLine c v s).client d).apertures = (s.client d).apertures := by
  unfold setLine
  rw [client_setClient]
  split
  · rename_i e; rw [e]
  · rfl

@[simp] theorem apertures_setLevel (c d : ClientId) (l : Nat) :
    ((setLevel c l s).client d).apertures = (s.client d).apertures := by
  unfold setLevel
  rw [client_setClient]
  split
  · rename_i e; rw [e]
  · rfl

@[simp] theorem apertures_refreshBoot (c : ClientId) : ((refreshBoot s).client c).apertures = (s.client c).apertures := by
  simp [refreshBoot, State.client]

/-! ## Canonical form -/

/-- A change that leaves memory and every table as they are keeps the canonical form. -/
theorem canonical_congr (k : s.Canonical) (hmem : t.mem = s.mem) (hboot : t.boot = s.boot) (hdir : t.dir = s.dir)
    (hsectors : t.sectors = s.sectors) (hlast : t.lastOutcomes = s.lastOutcomes)
    (hap : ∀ c, (t.client c).apertures = (s.client c).apertures) : t.Canonical :=
  ⟨hmem ▸ k.mem, hboot ▸ k.boot, hdir ▸ k.dir, hsectors ▸ k.sectors, hlast ▸ k.lastOutcomes, fun c => hap c ▸ k.apertures c⟩

theorem canonical_setPort (k : s.Canonical) {p : Port} {u : PortUnit} : (s.setPort p u).Canonical :=
  canonical_congr k (setPort_mem ..) (setPort_boot ..) (setPort_dir ..) (setPort_sectors ..) (setPort_lastOutcomes ..)
    (fun _ => apertures_setPort ..)

theorem canonical_setAperture (k : s.Canonical) {c : ClientId} {ap : Nat} {r : Option Aperture} :
    (setAperture c ap r s).Canonical :=
  { k with
    apertures := fun d => by
      unfold setAperture
      rw [client_setClient]
      split
      · exact Table.wf_put (k.apertures c)
      · exact k.apertures d }

theorem canonical_refreshBoot (k : s.Canonical) : (refreshBoot s).Canonical :=
  canonical_congr k rfl rfl rfl rfl rfl fun _ => apertures_refreshBoot _

/-- Every change made while settling or taking keeps the canonical form. -/
theorem Move.canonical (h : Move s t) (k : s.Canonical) : t.Canonical := by
  cases h with
  | responds | raisesMgmt | raisesClient | marks | begins | polls => exact canonical_setPort k
  | images => exact { k with dir := Table.wf_put k.dir }
  | maps _ h => exact { k with sectors := h k.sectors }
  | employs _ _ h => exact { k with lastOutcomes := h k.lastOutcomes }
  | binds => exact canonical_setAperture k
  | revokes i =>
    refine { k with apertures := fun c => ?_ }
    simp only [State.client, Quad.get_map]
    exact (Kept.revokeAt_apertures i _ (k.apertures c)).1
  | levels => exact canonical_congr k rfl rfl rfl rfl rfl fun _ => apertures_setLevel ..
  | serves | drops | quits | programs | erases | resumes | suspends | claims | admits | lodges | runs => exact { k with }
  | grants _ h =>
    obtain ⟨_, _, _, rfl, _⟩ := grantSlot_eq h
    exact { k with }
  | closes w =>
    have k' : (releaseSlot .settings { s with op := none }).Canonical := { k with }
    rcases refresh_eq w (releaseSlot .settings { s with op := none }) with e | e <;> rw [e]
    · exact { k' with }
    · exact canonical_refreshBoot k'

theorem canonical_updImage (k : s.Canonical) {i : Nat} {f : Image → Image} : (s.updImage i f).Canonical := by
  unfold State.updImage
  split
  · exact { k with dir := Table.wf_put k.dir }
  · exact k

theorem canonical_bootBind (k : s.Canonical) {c : ClientId} : (bootBind c s).Canonical := by
  have kl : (setLevel c (s.client c).bootCopy.level s).Canonical :=
    canonical_congr k rfl rfl rfl rfl rfl fun _ => apertures_setLevel ..
  unfold bootBind
  dsimp only
  split
  · exact kl
  · exact canonical_setPort kl
  · split
    · exact canonical_updImage (canonical_setAperture kl)
    · exact canonical_setPort kl

theorem canonical_releaseReset (k : s.Canonical) : (releaseReset s).Canonical := by
  have hbegin : ∀ {u : State} {c : ClientId}, u.Canonical → (beginPort u c).Canonical := by
    intro u c ku
    unfold beginPort
    split
    · exact canonical_setPort (canonical_setPort ku)
    · exact ku
  unfold releaseReset
  split
  · exact hbegin (hbegin (hbegin (hbegin { k with })))
  · exact k

/-- Every elementary change keeps the canonical form. -/
theorem Act.canonical (h : Act s t) (k : s.Canonical) : t.Canonical := by
  cases h with
  | moves _ h => exact Move.canonical h k
  | queues | answers | sends | resets | restarts => exact canonical_setPort k
  | lines => exact canonical_congr k rfl rfl rfl rfl rfl fun _ => apertures_setLine ..
  | cuts => exact { k with mem := Memory.wf_writeN k.mem _ _ }
  | writes => exact { k with mem := Memory.wf_writeN k.mem _ _ }
  | scrambles _ _ _ h => exact { k with mem := h k.mem }
  | erases => exact { k with mem := Memory.wf_eraseN k.mem _ _ }
  | cutsStore o =>
    cases hw : o.work with
    | bootEntry | lockMark => exact { k with boot := Memory.wf_writeN k.boot _ _ }
    | protectBit | eraseRow | eraseBoot => exact { k with }
  | programsStore o =>
    cases hw : o.work with
    | bootEntry | lockMark => exact { k with boot := Memory.wf_writeN k.boot _ _ }
    | protectBit | eraseRow | eraseBoot => exact { k with }
  | scramblesStore o =>
    cases hw : o.work with
    | eraseBoot => exact { k with boot := wf_scrambleN k.boot _ _ _ }
    | protectBit | eraseRow | bootEntry | lockMark => exact { k with }
  | erasesStore o =>
    cases hw : o.work with
    | eraseBoot => exact { k with boot := Memory.wf_eraseN k.boot _ _ }
    | protectBit | eraseRow | bootEntry | lockMark => exact { k with }
  | clears =>
    refine ⟨k.mem, k.boot, rfl, rfl, rfl, fun c => ?_⟩
    simp only [clearVolatile, State.client, Quad.get_map]
    rfl
  | releases => exact canonical_releaseReset k
  | empties c =>
    refine { k with apertures := fun d => ?_ }
    rw [client_setClient]
    split
    · rfl
    · exact k.apertures d
  | readies c => exact canonical_setPort (p := .client c) (canonical_bootBind k)
  | readiesMgmt =>
    unfold startMgmt
    split
    · exact { k with }
    · exact k
  | refreshes => exact canonical_refreshBoot (s := refreshRow s) { k with }
  | wires | draws | scans | sensesIn | idles | senses | enters | endsErase | suspended | expires | passes =>
    exact { k with }

end

/-- Settles O56: each elementary change keeps the form of what it writes. -/
theorem everyStepKeepsTheCanonicalForm : Obligations.EveryStepKeepsTheCanonicalForm :=
  fun _ _ k h => step_keeps (P := State.Canonical) (fun _ _ k => { k with }) (fun _ _ ha k => Act.canonical ha k) k h

section
variable {s t : State}

/-! ## Bank records and their activity -/

/-- A bank that goes on serving keeps its record in agreement with its activity. -/
theorem legal_serves {k k' : Bank} (h : Serves k k') (l : k.Legal) : k'.Legal := by
  have herase : ∀ e', k'.erase = some e' → ∃ e, k.erase = some e ∧ e'.suspended = e.suspended ∧ e'.lockout = e.lockout := by
    intro e' he'
    rcases h.erase with he | he
    · exact ⟨e', he ▸ he', rfl, rfl⟩
    · rw [he, Option.map_eq_some_iff] at he'
      obtain ⟨e, hk, rfl⟩ := he'
      exact ⟨e, hk, rfl, rfl⟩
  have hnone : k.erase = none → k'.erase = none := fun hk => by rcases h.erase with he | he <;> simp [he, hk]
  have hsome : ∀ e, k.erase = some e → e.suspended = false → ∃ e', k'.erase = some e' ∧ e'.suspended = false := by
    intro e hk hs
    rcases h.erase with he | he
    · exact ⟨e, he ▸ hk, hs⟩
    · exact ⟨{ e with served := true }, by rw [he, hk]; rfl, hs⟩
  have hact : k'.activity = k.activity ∨ ∃ x, k'.activity = .sensing x := by
    rcases h.activity with ha | ⟨-, ha⟩ | ⟨-, ha⟩
    · exact Or.inl ha
    · exact Or.inr ha
    · exact Or.inr ha
  have hlock : ∀ e', k'.erase = some e' → e'.lockout ≤ 100 := fun e' he' => by
    obtain ⟨e, hk, -, hl⟩ := herase e' he'
    exact hl ▸ l.lockout e hk
  rcases hact with ha | ⟨x, ha⟩
  · refine ⟨fun hl => ?_, fun hc => ?_, fun q f hp => ?_, fun he => ?_, h.credits l.credits, hlock⟩
    · rw [h.openLine]; exact l.opened (ha ▸ hl)
    · rw [h.openLine]; exact l.closed (by rwa [Bank.powered, ha] at hc)
    · exact hnone (l.program q f (ha ▸ hp))
    · rw [ha] at he
      obtain ⟨e, hk, hs⟩ := l.erasing he
      exact hsome e hk hs
  · exact ⟨by simp [ha], by simp [Bank.powered, ha], by simp [ha], by simp [ha], h.credits l.credits, hlock⟩

/-- Dropping an abandoned job's verify read leaves a bank serving. -/
theorem serves_dropVerify (n : Nat) (k : Bank) : Serves k (dropVerify n k) := by
  refine ⟨CreditsOk.mono _ fun _ hm => (List.mem_filter.mp hm).1, rfl, rfl, Or.inl rfl, ?_⟩
  unfold dropVerify
  dsimp only
  split
  · rename_i ha
    refine Or.inr (Or.inr ⟨⟨_, ha⟩, ?_⟩)
    split <;> exact ⟨_, rfl⟩
  · exact Or.inl rfl

/-- A change of one bank record keeps the agreement of every bank when it keeps that bank's. -/
theorem banksLegal_setBank (k : s.BanksLegal) {b : BankId} {v : Bank} (h : (s.bank b).Legal → v.Legal) :
    (s.setBank b v).BanksLegal := fun d => by
  rw [bank_setBank]
  split
  · exact h (k b)
  · exact k d

/-- A change that leaves the banks as they are keeps their agreement. -/
theorem banksLegal_congr (k : s.BanksLegal) (h : t.banks = s.banks) : t.BanksLegal := fun b => by
  have hb : t.bank b = s.bank b := by unfold State.bank; rw [h]
  exact hb ▸ k b

/-- A record with no erase under way and no open line agrees with the activity IDLE. -/
theorem legal_idle {k : Bank} (l : k.Legal) {e : Option EraseContext} {c : Claim}
    (he : ∀ x, e = some x → x.lockout ≤ 100) :
    ({ k with activity := .idle, openLine := none, erase := e, claim := c } : Bank).Legal :=
  ⟨by simp, fun _ => rfl, by simp, by simp, l.credits, he⟩

/-- The record of a bank right after reset agrees with its activity. -/
theorem legal_reset : ({} : Bank).Legal := ⟨by simp, by simp, by simp, by simp, by simp, by simp⟩

theorem legal_claim {k : Bank} (l : k.Legal) {c : Claim} : ({ k with claim := c } : Bank).Legal :=
  ⟨l.opened, l.closed, l.program, l.erasing, l.credits, l.lockout⟩

/-- A free bank that begins a program sequence agrees with it. -/
theorem legal_programming {k : Bank} (l : k.Legal) {q : ProgramSequence} {w : List Access} (he : k.erase = none)
    (hw : CreditsOk k.waiting → CreditsOk w) :
    ({ k with waiting := w, activity := .programming q .blankCheck, openLine := none } : Bank).Legal :=
  ⟨by simp, fun _ => rfl, fun _ _ _ => he, by simp, hw l.credits, l.lockout⟩

/-- A bank with a RUNNING erase context and no open line agrees with the activity ERASING. -/
theorem legal_erasing {k : Bank} (l : k.Legal) {w : List Access} {e : EraseContext} {c : Claim}
    (hw : CreditsOk k.waiting → CreditsOk w) (hs : e.suspended = false) (hl : e.lockout ≤ 100) :
    ({ k with waiting := w, activity := .erasing, openLine := none, claim := c, erase := some e } : Bank).Legal :=
  ⟨by simp, fun _ => rfl, by simp, fun _ => ⟨e, rfl, hs⟩, hw l.credits, by rintro _ ⟨⟩; exact hl⟩

/-- Every change made while settling or taking keeps every bank record in agreement with its activity. -/
theorem Move.banksLegal (h : Move s t) (k : s.BanksLegal) : t.BanksLegal := by
  cases h with
  | responds | marks | begins | polls => exact banksLegal_congr k (setPort_banks ..)
  | raisesMgmt | raisesClient | images | maps | employs | binds | revokes | levels | admits | lodges | runs => exact k
  | serves b v h => exact banksLegal_setBank k (legal_serves h)
  | drops n =>
    intro b
    simp only [State.bank, Quad.get_map]
    exact legal_serves (serves_dropVerify n _) (k b)
  | quits b => exact banksLegal_congr (banksLegal_setBank k fun l => legal_idle l l.lockout) rfl
  | programs b q w hf hs hc he hw => exact banksLegal_setBank k fun l => legal_programming l he hw
  | erases b n sector w hf hs hc he hw => exact banksLegal_setBank k fun l => legal_erasing l hw rfl (Nat.zero_le _)
  | resumes b e => exact banksLegal_setBank k fun l => legal_erasing l id rfl (Nat.le_refl _)
  | suspends b e ha he =>
    refine banksLegal_setBank k fun l => ⟨by simp, fun _ => l.closed (Or.inr ?_), by simp, fun _ => l.erasing (Or.inl ha),
      l.credits, l.lockout⟩
    simp [Bank.powered, ha]
  | claims b v => exact banksLegal_congr (banksLegal_setBank k fun l => legal_claim l) rfl
  | grants _ h =>
    obtain ⟨_, _, _, rfl, _⟩ := grantSlot_eq h
    exact k
  | closes w => rcases refresh_eq w (releaseSlot .settings { s with op := none }) with e | e <;> rw [e] <;> exact k

/-- A running erase is the erase context of a bank that is ERASING or SUSPENDING, and it is not SUSPENDED. -/
theorem runningErase_eq {k : Bank} {e : EraseContext} (h : runningErase k = some e) : k.erase = some e
    ∧ e.suspended = false ∧ (k.activity = .erasing ∨ ∃ n, k.activity = .suspending n) := by
  unfold runningErase at h
  split at h
  · rename_i ha he
    split at h
    · cases h
    · rename_i hs; cases h; exact ⟨he, eq_false_of_ne_true hs, Or.inl ha⟩
  · rename_i ha he
    split at h
    · cases h
    · rename_i hs; cases h; exact ⟨he, eq_false_of_ne_true hs, Or.inr ⟨_, ha⟩⟩
  · cases h

/-- A bank that is ERASING or SUSPENDING with an erase context that is not SUSPENDED runs that erase. -/
theorem runningErase_of {k : Bank} {e : EraseContext} (ha : k.activity = .erasing ∨ ∃ n, k.activity = .suspending n)
    (he : k.erase = some e) (hs : e.suspended = false) : runningErase k = some e := by
  rcases ha with ha | ⟨n, ha⟩ <;> simp [runningErase, ha, he, hs]

theorem lockout_later {e : EraseContext} (h : e.lockout ≤ 100) : e.later.lockout ≤ 100 := by
  unfold EraseContext.later
  split
  · exact h
  · exact Nat.le_trans (Nat.sub_le ..) h

theorem suspended_later (e : EraseContext) : e.later.suspended = e.suspended := by
  unfold EraseContext.later
  split <;> rfl

/-- One microsecond keeps a bank record in agreement with its activity. -/
theorem legal_later {k : Bank} (l : k.Legal) : k.later.Legal := by
  have hlock : ∀ e, k.erase.map EraseContext.later = some e → e.lockout ≤ 100 := fun e he => by
    obtain ⟨x, hx, rfl⟩ := Option.map_eq_some_iff.mp he
    exact lockout_later (l.lockout x hx)
  have herase : (k.activity = .erasing ∨ ∃ n, k.activity = .suspending n) →
      ∃ e, k.erase.map EraseContext.later = some e ∧ e.suspended = false := fun ha => by
    obtain ⟨e, he, hs⟩ := l.erasing ha
    exact ⟨e.later, by rw [he]; rfl, (suspended_later e).trans hs⟩
  unfold Bank.later
  split
  · rename_i q n ha
    exact ⟨by simp, fun _ => l.closed (Or.inr (by simp [Bank.powered, ha])), fun _ _ _ => l.program _ _ ha, by simp, l.credits,
      l.lockout⟩
  · rename_i ha
    exact ⟨fun h => l.opened h, fun h => l.closed h, by simp [ha], fun _ => herase (Or.inl ha), l.credits, hlock⟩
  · rename_i n ha
    exact ⟨by simp, fun _ => l.closed (Or.inr (by simp [Bank.powered, ha])), by simp, fun _ => herase (Or.inr ⟨n, ha⟩),
      l.credits, hlock⟩
  · exact l

/-- Every elementary change keeps every bank record in agreement with its activity. -/
theorem Act.banksLegal (h : Act s t) (k : s.BanksLegal) : t.BanksLegal := by
  cases h with
  | moves _ h => exact Move.banksLegal h k
  | queues | answers | sends | resets | restarts => exact banksLegal_congr k (setPort_banks ..)
  | wires | lines | draws | cuts | scrambles | writes | erases | empties | scans | refreshes => exact k
  | cutsStore o => cases hw : o.work <;> exact k
  | programsStore o => cases hw : o.work <;> exact k
  | scramblesStore o => cases hw : o.work <;> exact k
  | erasesStore o => cases hw : o.work <;> exact k
  | clears => exact fun b => by cases b <;> exact legal_reset
  | releases =>
    have hbegin : ∀ (u : State) (c : ClientId), (beginPort u c).banks = u.banks := fun u c => by
      unfold beginPort; split <;> rfl
    refine banksLegal_congr k ?_
    unfold releaseReset
    split
    · simp [Four.all, hbegin]
    · rfl
  | readies => exact banksLegal_congr k (by
      unfold readyClient bootBind
      dsimp only
      split
      · rfl
      · rfl
      · split
        · exact updImage_banks ..
        · rfl)
  | readiesMgmt => exact banksLegal_congr k (by unfold startMgmt; split <;> rfl)
  | sensesIn => exact banksLegal_setBank k fun l => ⟨by simp, by simp [Bank.powered], by simp, by simp, l.credits, l.lockout⟩
  | idles => exact banksLegal_setBank k fun l => legal_idle l l.lockout
  | senses => exact banksLegal_setBank k fun l => ⟨fun _ => rfl, by simp [Bank.powered], by simp, by simp, l.credits, l.lockout⟩
  | enters b q f g ha =>
    exact banksLegal_setBank k fun l => ⟨by simp, fun _ => l.closed (Or.inr (by simp [Bank.powered, ha])),
      fun _ _ _ => l.program _ _ ha, by simp, l.credits, l.lockout⟩
  | endsErase => exact banksLegal_congr (banksLegal_setBank k fun l => legal_idle l (e := none) (c := (s.bank _).claim) (by simp)) rfl
  | suspended b e h =>
    refine banksLegal_congr (banksLegal_setBank k fun l => legal_idle l ?_) rfl
    rintro _ ⟨⟩
    exact l.lockout e (runningErase_eq h).1
  | expires b e h =>
    obtain ⟨he, hs, ha⟩ := runningErase_eq h
    exact banksLegal_setBank k fun l => ⟨l.opened, l.closed, fun q f hp => by simp [l.program q f hp] at he,
      fun _ => ⟨_, rfl, hs⟩, l.credits, by rintro _ ⟨⟩; exact Nat.zero_le _⟩
  | passes =>
    intro b
    simp only [later, State.bank, Quad.get_map]
    exact legal_later (k b)

/-! ## The programming supply -/

/-- A claimant that is not released keeps its slot. -/
theorem holdsSlot_releaseSlot {c d : Claimant} (h : d ≠ c) : (releaseSlot c s).holdsSlot d = s.holdsSlot d := by
  have hd : ∀ o : Option Claimant, ((if o = some c then none else o) == some d) = (o == some d) := fun o => by
    split
    · rename_i e; simp [e, Ne.symm h]
    · rfl
  simp only [State.holdsSlot, releaseSlot, hd]

/-- A change after which no more banks or store are powered, and every holder keeps its slot, keeps the rule. -/
theorem supplied_mono (k : s.Supplied) (hb : ∀ b, (t.bank b).powered = true → (s.bank b).powered = true)
    (ho : storePowered t = true → storePowered s = true) (hh : ∀ c, s.holdsSlot c = true → t.holdsSlot c = true) :
    t.Supplied :=
  ⟨fun b h => hh _ (k.banks b (hb b h)), fun h => hh _ (k.store (ho h))⟩

/-- A change that leaves the banks, the slots and the settings-store operation as they are keeps the rule. -/
theorem supplied_congr (k : s.Supplied) (hb : t.banks = s.banks) (ho : t.op = s.op) (hA : t.slotA = s.slotA)
    (hB : t.slotB = s.slotB) : t.Supplied :=
  supplied_mono k (fun b => by simp [State.bank, hb]) (by simp [storePowered, ho]) (by simp [State.holdsSlot, hA, hB])

theorem supplied_setPort (k : s.Supplied) {p : Port} {u : PortUnit} : (s.setPort p u).Supplied :=
  supplied_congr k (setPort_banks ..) (setPort_op ..) (setPort_slotA ..) (setPort_slotB ..)

/-- A bank record that is powered only while its bank holds a slot. -/
theorem supplied_setBank (k : s.Supplied) {b : BankId} {v : Bank}
    (h : v.powered = true → (s.bank b).powered = true ∨ s.holdsSlot (.bank b) = true) : (s.setBank b v).Supplied := by
  refine ⟨fun d hd => ?_, k.store⟩
  rw [bank_setBank] at hd
  split at hd
  · rename_i e
    subst e
    exact (h hd).elim (k.banks d) id
  · exact k.banks d hd

/-- A bank that does not program or erase may release its slot. -/
theorem supplied_release (k : s.Supplied) {b : BankId} {v : Bank} (h : v.powered = false) :
    (releaseSlot (.bank b) (s.setBank b v)).Supplied := by
  refine ⟨fun d hd => ?_, fun ho => ?_⟩
  · by_cases e : d = b
    · subst e
      have : (releaseSlot (.bank d) (s.setBank d v)).bank d = v := bank_setBank_same s d v
      rw [this, h] at hd
      cases hd
    · rw [holdsSlot_releaseSlot (by simp [e])]
      have : (releaseSlot (.bank b) (s.setBank b v)).bank d = s.bank d := bank_setBank_ne s v e
      exact k.banks d (this ▸ hd)
  · rw [holdsSlot_releaseSlot (by simp)]
    exact k.store ho

/-- The settings store that ends its operation may release its slot. -/
theorem supplied_close (k : s.Supplied) : (releaseSlot .settings { s with op := none }).Supplied :=
  ⟨fun b hb => by rw [holdsSlot_releaseSlot (by simp)]; exact k.banks b hb,
    fun h => Bool.noConfusion h⟩

theorem powered_serves {k k' : Bank} (h : Serves k k') (hp : k'.powered = true) : k.powered = true := by
  rcases h.activity with ha | ⟨-, x, ha⟩ | ⟨-, x, ha⟩
  · rwa [Bank.powered, ha] at hp
  · simp [Bank.powered, ha] at hp
  · simp [Bank.powered, ha] at hp

/-- Every change made while settling or taking keeps the rule of the supply. -/
theorem Move.supplied (h : Move s t) (k : s.Supplied) : t.Supplied := by
  cases h with
  | responds | marks | begins | polls => exact supplied_setPort k
  | raisesMgmt | raisesClient | images | maps | employs | binds | revokes | levels | lodges => exact { k with }
  | admits => exact ⟨k.banks, fun h => Bool.noConfusion h⟩
  | serves b v h => exact supplied_setBank k fun hp => Or.inl (powered_serves h hp)
  | drops n =>
    refine supplied_mono k (fun b => ?_) id fun _ => id
    simp only [State.bank, Quad.get_map]
    exact powered_serves (serves_dropVerify n _)
  | quits b => exact supplied_release k rfl
  | programs b q w hf hs | erases b n sector w hf hs => exact supplied_setBank k fun _ => Or.inr hs
  | resumes b e hf hs => exact supplied_setBank k fun _ => Or.inr hs
  | suspends b e ha => exact supplied_setBank k fun _ => Or.inl (by simp [Bank.powered, ha])
  | claims b v => exact supplied_congr (supplied_setBank (b := b) (v := { s.bank b with claim := v }) k fun hp => Or.inl hp) rfl rfl rfl rfl
  | grants _ h =>
    obtain ⟨_, _, _, rfl, hh⟩ := grantSlot_eq h
    exact supplied_mono k (fun _ => id) id hh
  | runs o _ hs => exact ⟨k.banks, fun _ => hs⟩
  | closes w =>
    rcases refresh_eq w (releaseSlot .settings { s with op := none }) with e | e <;> rw [e] <;>
      exact supplied_congr (supplied_close k) rfl rfl rfl rfl

theorem powered_later (k : Bank) : k.later.powered = k.powered := by
  unfold Bank.later
  split
  · rename_i h; simp [Bank.powered, h]
  · rfl
  · rename_i h; simp [Bank.powered, h]
  · rfl

/-- Every elementary change keeps the rule of the supply. -/
theorem Act.supplied (h : Act s t) (k : s.Supplied) : t.Supplied := by
  cases h with
  | moves _ h => exact Move.supplied h k
  | queues | answers | sends | resets | restarts => exact supplied_setPort k
  | wires | lines | draws | cuts | scrambles | writes | erases | empties | scans | refreshes => exact { k with }
  | cutsStore o => cases hw : o.work <;> exact { k with }
  | programsStore o => cases hw : o.work <;> exact { k with }
  | scramblesStore o => cases hw : o.work <;> exact { k with }
  | erasesStore o => cases hw : o.work <;> exact { k with }
  | clears => exact ⟨fun b h => (by cases b <;> exact Bool.noConfusion h), fun h => Bool.noConfusion h⟩
  | releases =>
    have hbegin : ∀ {u : State} {c : ClientId}, u.Supplied → (beginPort u c).Supplied := fun {u c} ku => by
      unfold beginPort
      split
      · exact { ku with }
      · exact ku
    unfold releaseReset
    split
    · exact hbegin (hbegin (hbegin (hbegin { k with })))
    · exact k
  | readies =>
    unfold readyClient bootBind
    dsimp only
    split
    · exact { k with }
    · exact { k with }
    · split
      · exact supplied_congr k (updImage_banks ..) (updImage_op ..) (updImage_slotA ..) (updImage_slotB ..)
      · exact { k with }
  | readiesMgmt =>
    unfold startMgmt
    split
    · exact { k with }
    · exact k
  | sensesIn | idles | senses => exact supplied_setBank k fun h => Bool.noConfusion h
  | enters b q f g ha => exact supplied_setBank k fun _ => Or.inl (by simp [Bank.powered, ha])
  | endsErase | suspended => exact supplied_release k rfl
  | expires => exact supplied_setBank k fun hp => Or.inl hp
  | passes =>
    refine supplied_mono k (fun b => ?_) ?_ fun _ => id
    · simp only [later, State.bank, Quad.get_map, powered_later]
      exact id
    · cases ho : s.op with
      | none => simp [storePowered, later, ho]
      | some o => cases hr : o.running <;> simp [storePowered, later, ho, SettingsOp.later, hr]

/-- Whoever programs or erases. -/
def poweredClaimants (s : State) : List Claimant :=
  (Four.all.filter fun b => (s.bank b).powered).map Claimant.bank ++ if storePowered s then [.settings] else []

theorem length_poweredClaimants (s : State) : (poweredClaimants s).length = powered s := by
  unfold poweredClaimants powered
  cases storePowered s <;> simp

theorem nodup_poweredClaimants (s : State) : (poweredClaimants s).Nodup := by
  have hbanks : ((Four.all.filter fun b => (s.bank b).powered).map Claimant.bank).Nodup :=
    ((show Four.all.Nodup by decide).filter _).map fun _ _ => Claimant.bank.inj
  unfold poweredClaimants
  split
  · exact hbanks.append (List.nodup_singleton _) (by simp)
  · simpa using hbanks

/-- Two slots feed at most two: the powered claimants are distinct, and each stands in a slot. -/
theorem powered_le_two (k : s.Supplied) : powered s ≤ 2 := by
  have hslots : (poweredClaimants s).map some ⊆ [s.slotA, s.slotB] := by
    intro o ho
    obtain ⟨c, hc, rfl⟩ := List.mem_map.mp ho
    have hheld : s.holdsSlot c = true := by
      rcases List.mem_append.mp hc with hbank | hst
      · obtain ⟨b, hb, rfl⟩ := List.mem_map.mp hbank
        exact k.banks b (List.mem_filter.mp hb).2
      · split at hst
        · cases List.mem_singleton.mp hst
          exact k.store ‹_›
        · cases hst
    simp only [State.holdsSlot, Bool.or_eq_true, beq_iff_eq] at hheld
    simp only [List.mem_cons, List.not_mem_nil, or_false]
    exact hheld.imp Eq.symm Eq.symm
  have hnodup := (nodup_poweredClaimants s).map (Option.some_injective _)
  calc powered s = ((poweredClaimants s).map some).length := by rw [List.length_map, length_poweredClaimants]
    _ ≤ 2 := (hnodup.subperm hslots).length_le

end

/-- Settles O58: each elementary change keeps the agreement of the one bank record it changes. -/
theorem everyStepKeepsTheBanksLegal : Obligations.EveryStepKeepsTheBanksLegal :=
  fun _ _ k h => step_keeps (P := State.BanksLegal) (fun _ _ k => k) (fun _ _ ha k => Act.banksLegal ha k) k h

/-- Settles O59: a bank begins to program or erase on its slot, and gives the slot up only as it ends; and two slots have at
most two holders. -/
theorem atMostTwoProgramOrErase : Obligations.AtMostTwoProgramOrErase :=
  ⟨fun _ _ k h => step_keeps (P := State.Supplied) (fun _ _ k => { k with }) (fun _ _ ha k => Act.supplied ha k) k h,
    fun _ => powered_le_two⟩

section
variable {s t : State} {u : PortUnit}

/-! ## Port units -/

/-- A frame placed on a link output: at most one more is not begun, and only behind a frame being sent. -/
theorem place_spec (u : PortUnit) (r : Response) : (u.place r).queue = u.queue ∧ (u.place r).state = u.state
    ∧ (u.place r).inService = u.inService ∧ (u.place r).causes = u.causes
    ∧ (u.place r).notBegun.length ≤ u.notBegun.length + 1 ∧ (u.place r).sending ≠ none := by
  unfold PortUnit.place
  cases u.sending <;> simp

/-- What a port unit keeps when a response frame is placed on its link output. -/
theorem legal_place (l : u.Legal) {r : Response} (hroom : u.notBegun.length ≤ 7) (hi : u.inService = false) :
    (u.place r).Legal := by
  obtain ⟨hq, hst, hin, -, hn, hsend⟩ := place_spec u r
  exact ⟨hq ▸ l.queue, fun h => (by rw [hin, hi] at h; cases h), by omega, fun h => absurd h hsend,
    fun h => hq ▸ l.ready (hst ▸ h)⟩

/-- A port unit that answers keeps its bounds, its state and its causes; it sends afterwards only where it was READY or
sending. -/
theorem respond_spec (l : u.Legal) (st : Status) (rs : List Byte) : (u.respond st rs).Legal
    ∧ (u.respond st rs).state = u.state ∧ (u.respond st rs).causes = u.causes
    ∧ (u.state ≠ .ready → (u.respond st rs).sending = u.sending) := by
  unfold PortUnit.respond
  split
  · rename_i tag r rest hi hq
    obtain ⟨hready, -, hroom⟩ := l.service hi
    have hlen := l.queue
    rw [hq, List.length_cons] at hlen
    have l' : ({ u with queue := rest, inService := false } : PortUnit).Legal :=
      ⟨by simp only; omega, fun h => Bool.noConfusion h, l.room, l.link, fun h => absurd hready h⟩
    obtain ⟨-, hst, -, hc, -, -⟩ := place_spec { u with queue := rest, inService := false }
      { kind := r.code, tag, status := st, results := rs }
    exact ⟨legal_place l' hroom rfl, hst, hc, fun h => absurd hready h⟩
  · exact ⟨l, rfl, rfl, fun _ => rfl⟩

/-- A change of one port record keeps the bounds of all ports when the new record keeps its own. -/
theorem portsLegal_setPort (k : s.PortsLegal) {p : Port} (hu : u.Legal)
    (hmgmt : p = .mgmt → u.state ≠ .resetting)
    (hclient : ∀ c, p = .client c → (u.state ≠ .ready → (s.client c).apertures = [] ∧ u.causes = {})
      ∧ (u.state = .resetting → u.sending = none))
    (hheld : s.resetHeld = true → u.state = .starting ∧ u.sending = none) : (s.setPort p u).PortsLegal := by
  refine ⟨?_, ?_, fun c => ?_, fun h q => ?_⟩
  · cases p with
    | mgmt => exact hu
    | client c => exact k.mgmt
  · cases p with
    | mgmt => exact hmgmt rfl
    | client c => exact k.mgmtState
  · rw [client_setPort]
    split
    · rename_i hp
      obtain ⟨hidle, hlink⟩ := hclient c hp
      exact ⟨hu, fun h => (hidle h).1, fun h => (hidle h).2, hlink⟩
    · exact k.clients c
  · rw [setPort_resetHeld] at h
    rw [port_setPort]
    split
    · exact hheld h
    · exact k.held h q

/-- A port record changes without its state, and without sending more: the bounds are kept. -/
theorem portsLegal_setPort_of_state (k : s.PortsLegal) {p : Port} (hu : u.Legal) (hstate : u.state = (s.port p).state)
    (hcauses : u.state ≠ .ready → u.causes = (s.port p).causes ∨ u.causes = {})
    (hsend : u.state ≠ .ready → (s.port p).sending = none → u.sending = none) : (s.setPort p u).PortsLegal := by
  refine portsLegal_setPort k hu (fun hp => ?_) (fun c hp => ⟨fun h => ⟨?_, ?_⟩, fun h => ?_⟩) (fun h => ?_)
  · subst hp; exact hstate ▸ k.mgmtState
  · subst hp; exact (k.clients c).table (hstate ▸ h)
  · subst hp
    rcases hcauses h with e | e
    · exact e.trans ((k.clients c).causes (hstate ▸ h))
    · exact e
  · subst hp
    exact hsend (by simp [h]) ((k.clients c).link (hstate ▸ h))
  · obtain ⟨hst, hnone⟩ := k.held h p
    exact ⟨hstate.trans hst, hsend (by simp [hstate, hst]) hnone⟩

theorem legal_port (k : s.PortsLegal) (p : Port) : (s.port p).Legal := by
  cases p with
  | mgmt => exact k.mgmt
  | client c => exact (k.clients c).port

/-- A change that leaves the ports' records, the tables and the RESET line as they are keeps the bounds. -/
theorem portsLegal_congr (k : s.PortsLegal) (hm : t.mgmt = s.mgmt) (hh : t.resetHeld = s.resetHeld)
    (hp : ∀ c, (t.client c).port = (s.client c).port)
    (ha : ∀ c, (s.client c).apertures = [] → (t.client c).apertures = []) : t.PortsLegal := by
  refine ⟨hm ▸ k.mgmt, hm ▸ k.mgmtState, fun c => ?_, fun h p => ?_⟩
  · obtain ⟨h1, h2, h3, h4⟩ := k.clients c
    exact ⟨hp c ▸ h1, fun h => ha c (h2 (hp c ▸ h)), fun h => by rw [hp c] at h ⊢; exact h3 h,
      fun h => by rw [hp c] at h ⊢; exact h4 h⟩
  · rw [hh] at h
    cases p with
    | mgmt =>
      have := k.held h .mgmt
      rwa [show t.port .mgmt = s.port .mgmt from hm]
    | client c =>
      have := k.held h (.client c)
      rwa [show t.port (.client c) = s.port (.client c) from hp c]

/-- The unit of a client port changes without its port record, and its table only where the port is READY. -/
theorem portsLegal_setClient (k : s.PortsLegal) {c : ClientId} {v : ClientUnit} (hp : v.port = (s.client c).port)
    (ha : (s.client c).apertures = [] → v.apertures = [] ∨ v.port.state = .ready) : (s.setClient c v).PortsLegal := by
  refine ⟨k.mgmt, k.mgmtState, fun d => ?_, fun h q => ?_⟩
  · rw [client_setClient]
    split
    · rename_i e
      obtain ⟨h1, h2, h3, h4⟩ := k.clients c
      exact ⟨hp ▸ h1, fun h => (ha (h2 (hp ▸ h))).resolve_right h, fun h => by rw [hp] at h ⊢; exact h3 h,
        fun h => by rw [hp] at h ⊢; exact h4 h⟩
    · exact k.clients d
  · have hq : (s.setClient c v).port q = s.port q := by
      cases q with
      | mgmt => rfl
      | client d =>
        show ((s.setClient c v).client d).port = (s.client d).port
        rw [client_setClient]
        split
        · rename_i e; rw [e, hp]
        · rfl
    rw [hq]
    exact k.held h q

@[simp] theorem polled_default : ({} : CauseSet).polled = {} := rfl

theorem polled_causes (k : s.PortsLegal) {c : ClientId} (h : (s.client c).port.state ≠ .ready) :
    (s.client c).port.causes.polled = {} := by rw [(k.clients c).causes h]; rfl

/-- A bound that `Legal` puts on a port unit is not about its causes or its read mark. -/
theorem legal_marks (l : u.Legal) {k : CauseSet} {m : Bool} : ({ u with causes := k, readMark := m } : PortUnit).Legal :=
  ⟨l.queue, l.service, l.room, l.link, l.ready⟩

/-- A cause is raised at the management port, or at a client port that is READY. -/
theorem portsLegal_raise (k : s.PortsLegal) {p : Port} {c : Cause} (h : ∀ d, p = .client d → (s.port p).state = .ready) :
    (raise p c s).PortsLegal := by
  refine portsLegal_setPort k (legal_marks (m := (s.port p).readMark) (legal_port k p)) (fun hp => ?_)
    (fun d hp => ⟨fun hn => absurd (h d hp) hn, fun hn => ?_⟩) (fun hh => k.held hh p)
  · subst hp; exact k.mgmtState
  · have := h d hp
    simp only at hn
    rw [this] at hn
    cases hn

theorem port_revokeAt (i : Nat) (v : ClientUnit) : (revokeAt i v).port = { v.port with causes := (revokeAt i v).port.causes }
    ∧ (v.apertures = [] → revokeAt i v = v) := by
  unfold revokeAt
  split
  · exact ⟨rfl, fun _ => rfl⟩
  · rename_i h
    exact ⟨rfl, fun he => absurd (by simp [boundRecords, he]) h⟩

/-- Revoking an entry's records raises causes only at ports that hold one. -/
theorem portsLegal_revokes (k : s.PortsLegal) (i : Nat) :
    ({ s with clients := s.clients.map fun _ v => revokeAt i v } : State).PortsLegal := by
  have hclient : ∀ c, ({ s with clients := s.clients.map fun _ v => revokeAt i v } : State).client c
      = revokeAt i (s.client c) := fun c => Quad.get_map ..
  refine ⟨k.mgmt, k.mgmtState, fun c => ?_, fun h p => ?_⟩
  · rw [hclient]
    obtain ⟨hport, hempty⟩ := port_revokeAt i (s.client c)
    by_cases ha : (s.client c).apertures = []
    · rw [hempty ha]; exact k.clients c
    · have hready : (s.client c).port.state = .ready := by
        by_contra hn
        exact ha ((k.clients c).table hn)
      have hr : (revokeAt i (s.client c)).port.state = .ready := by rw [hport]; exact hready
      refine ⟨?_, fun h => absurd hr h, fun h => absurd hr h, fun h => by rw [hr] at h; cases h⟩
      rw [hport]
      exact legal_marks (m := (s.client c).port.readMark) (k.clients c).port
  · cases p with
    | mgmt => exact k.held h .mgmt
    | client c =>
      obtain ⟨hport, -⟩ := port_revokeAt i (s.client c)
      have := k.held h (.client c)
      show (State.client _ c).port.state = _ ∧ (State.client _ c).port.sending = _
      rw [hclient, hport]
      exact this

theorem portsLegal_refreshBoot (k : s.PortsLegal) : (refreshBoot s).PortsLegal :=
  portsLegal_congr k rfl rfl (fun c => by simp [refreshBoot, State.client]) (fun c => by simp)

/-- Every change made while settling or taking keeps the bounds of the ports. -/
theorem Move.portsLegal (h : Move s t) (k : s.PortsLegal) : t.PortsLegal := by
  cases h with
  | responds p st rs =>
    obtain ⟨hl, hst, hc, hsend⟩ := respond_spec (legal_port k p) st rs
    exact portsLegal_setPort_of_state k hl hst (fun _ => Or.inl hc) (fun h e => (hsend (hst ▸ h)).trans e)
  | raisesMgmt => exact portsLegal_raise k fun _ e => by cases e
  | raisesClient c _ ha =>
    refine portsLegal_raise k fun d hd => ?_
    by_contra hn
    exact ha ((k.clients c).table hn)
  | marks p v => exact portsLegal_setPort_of_state k (legal_marks (legal_port k p)) rfl (fun _ => Or.inl rfl) (fun _ e => e)
  | begins p h =>
    simp only [PortUnit.canTake, Bool.and_eq_true, beq_iff_eq, Bool.not_eq_true', List.isEmpty_eq_false_iff,
      decide_eq_true_eq] at h
    obtain ⟨⟨⟨⟨hst, hq⟩, -⟩, -⟩, hroom⟩ := h
    have l := legal_port k p
    exact portsLegal_setPort_of_state k ⟨l.queue, fun _ => ⟨hst, hq, Nat.le_of_lt_succ hroom⟩, l.room, l.link, l.ready⟩ rfl
      (fun _ => Or.inl rfl) (fun _ e => e)
  | polls p =>
    refine portsLegal_setPort k (legal_marks (m := (s.port p).readMark) (legal_port k p)) (fun hp => ?_)
      (fun c hp => ⟨fun hn => ⟨?_, ?_⟩, fun hn => ?_⟩) (fun hh => k.held hh p)
    · subst hp; exact k.mgmtState
    · subst hp; exact (k.clients c).table hn
    · subst hp; exact polled_causes k hn
    · subst hp; exact (k.clients c).link hn
  | binds c ap r hr => exact portsLegal_setClient k rfl fun _ => Or.inr hr
  | levels c l => exact portsLegal_setClient k rfl Or.inl
  | revokes i => exact portsLegal_revokes k i
  | images | maps | employs | serves | drops | quits | programs | erases | resumes | suspends | claims | admits | lodges
    | runs => exact portsLegal_congr k rfl rfl (fun _ => rfl) (fun _ => id)
  | grants _ h =>
    obtain ⟨_, _, _, rfl, _⟩ := grantSlot_eq h
    exact portsLegal_congr k rfl rfl (fun _ => rfl) (fun _ => id)
  | closes w =>
    have k' : (releaseSlot .settings { s with op := none }).PortsLegal :=
      portsLegal_congr k rfl rfl (fun _ => rfl) (fun _ => id)
    rcases refresh_eq w (releaseSlot .settings { s with op := none }) with e | e <;> rw [e]
    · exact portsLegal_congr k' rfl rfl (fun _ => rfl) (fun _ => id)
    · exact portsLegal_refreshBoot k'

/-- A unit that a port answers at once keeps its bounds, its state and its causes. -/
theorem answerAtOnce_spec (l : u.Legal) (kind tag : Byte) (st : Status) : (u.answerAtOnce kind tag st).Legal
    ∧ (u.answerAtOnce kind tag st).state = u.state ∧ (u.answerAtOnce kind tag st).causes = u.causes := by
  unfold PortUnit.answerAtOnce
  split
  · rename_i hroom
    replace hroom : u.notBegun.length < 4 := hroom
    obtain ⟨hq, hst, hin, hc, hn, hsend⟩ := place_spec u { kind, tag, status := st, results := [] }
    refine ⟨⟨hq ▸ l.queue, fun h => ?_, by omega, fun h => absurd h hsend, fun h => hq ▸ l.ready (hst ▸ h)⟩, hst, hc⟩
    obtain ⟨h1, h2, -⟩ := l.service (hin ▸ h)
    exact ⟨hst ▸ h1, hq ▸ h2, by omega⟩
  · exact ⟨l, rfl, rfl⟩

/-- A link that has sent its frame keeps the bounds of its unit. -/
theorem legal_sent (l : u.Legal) : u.sent.Legal := by
  have hle : u.sent.notBegun.length ≤ u.notBegun.length := by simp [PortUnit.sent]
  refine ⟨l.queue, fun h => ?_, Nat.le_trans hle l.room, fun h => ?_, l.ready⟩
  · obtain ⟨h1, h2, h3⟩ := l.service h
    exact ⟨h1, h2, Nat.le_trans hle h3⟩
  · simp only [PortUnit.sent, List.head?_eq_none_iff] at h
    simp [PortUnit.sent, h]

theorem sending_sent (l : u.Legal) (h : u.sending = none) : u.sent.sending = none := by
  simp [PortUnit.sent, l.link h]

theorem legal_resetting (u : PortUnit) : u.resetting.Legal :=
  ⟨Nat.zero_le _, fun h => Bool.noConfusion h, Nat.zero_le _, fun _ => rfl, fun _ => rfl⟩

/-- A port unit with the right state and an empty queue is as legal in one state as in another that does not serve. -/
theorem legal_state (l : u.Legal) (hi : u.inService = false) (hq : u.queue = []) {x : PortState} :
    ({ u with state := x } : PortUnit).Legal :=
  ⟨l.queue, fun h => by simp [hi] at h, l.room, l.link, fun _ => hq⟩

/-- A port that is not READY serves no request. -/
theorem inService_of_not_ready (l : u.Legal) (h : u.state ≠ .ready) : u.inService = false := by
  cases hi : u.inService
  · rfl
  · exact absurd (l.service hi).1 h

/-- Boot binding of a client port leaves the management port and every other client unit, and changes of its own port
record the causes alone. -/
theorem bootBind_spec (c : ClientId) (s : State) : (bootBind c s).mgmt = s.mgmt
    ∧ (∀ d, d ≠ c → (bootBind c s).client d = s.client d)
    ∧ ∃ k, (bootBind c s).port (.client c) = { s.port (.client c) with causes := k } := by
  have hlevel : (setLevel c (s.client c).bootCopy.level s).port (.client c) = s.port (.client c) := by
    simp [setLevel, State.port]
  refine ⟨?_, fun d hd => Kept.client_bootBind hd, ?_⟩
  · unfold bootBind
    dsimp only
    split
    · rfl
    · rfl
    · split
      · exact updImage_mgmt ..
      · rfl
  · unfold bootBind
    dsimp only
    split
    · exact ⟨_, hlevel⟩
    · exact ⟨_, by rw [raise, port_setPort_same, hlevel]⟩
    · split
      · refine ⟨(s.port (.client c)).causes, ?_⟩
        simp only [bindAperture, raiseBindings, State.port, State.client, updImage_clients]
        exact (congrArg ClientUnit.port (client_setClient_same _ c _)).trans hlevel
      · exact ⟨_, by rw [raise, port_setPort_same, hlevel]⟩

/-- A client port that becomes READY keeps the bounds. -/
theorem portsLegal_readyClient (k : s.PortsLegal) {c : ClientId} (h : (s.client c).port.state ≠ .ready)
    (hh : s.resetHeld = false) : (readyClient c s).PortsLegal := by
  obtain ⟨hm, hne, causes, hport⟩ := bootBind_spec c s
  replace hport : ((bootBind c s).client c).port = { (s.client c).port with causes := causes } := hport
  have l := (k.clients c).port
  have hclient : ∀ d, (readyClient c s).client d = if d = c
      then { (bootBind c s).client c with port := { (s.client c).port with causes := causes, state := .ready } }
      else s.client d := fun d => by
    unfold readyClient
    dsimp only
    rw [client_setPort]
    by_cases e : d = c
    · subst e; rw [if_pos rfl, if_pos rfl, hport]
    · rw [if_neg (by simp [Ne.symm e]), if_neg e, hne d e]
  have hmgmt : (readyClient c s).mgmt = s.mgmt := hm
  refine ⟨hmgmt ▸ k.mgmt, hmgmt ▸ k.mgmtState, fun d => ?_, fun hheld => ?_⟩
  · rw [hclient]
    split
    · exact ⟨legal_marks (u := { (s.client c).port with state := .ready }) (m := (s.client c).port.readMark)
        (legal_state l (inService_of_not_ready l h) (l.ready h)), fun h => absurd rfl h, fun h => absurd rfl h, nofun⟩
    · exact k.clients d
  · rw [Acts.resetHeld_readyClient, hh] at hheld
    cases hheld

/-- The release of RESET keeps the bounds. -/
theorem portsLegal_releaseReset (k : s.PortsLegal) : (releaseReset s).PortsLegal := by
  have hbegin : ∀ {v : State} {c : ClientId}, v.PortsLegal → v.resetHeld = false →
      ((v.client c).port.state = .starting ∧ (v.client c).port.sending = none) → (beginPort v c).PortsLegal := by
    intro v c kv hh hst
    unfold beginPort
    split
    · have l := (kv.clients c).port
      have hn : (v.client c).port.state ≠ .ready := by simp [hst.1]
      refine portsLegal_raise (portsLegal_setPort kv
        (legal_state l (inService_of_not_ready l hn) (l.ready hn)) (fun e => by cases e) (fun d hd => ?_) ?_)
        fun _ e => by cases e
      · cases hd
        exact ⟨fun _ => ⟨(kv.clients c).table hn, (kv.clients c).causes hn⟩, fun _ => hst.2⟩
      · rw [hh]; exact fun e => Bool.noConfusion e
    · exact kv
  have hheld : ∀ (v : State) (c : ClientId), (beginPort v c).resetHeld = v.resetHeld := fun v c => by
    unfold beginPort; split <;> rfl
  have hne : ∀ {v : State} {c d : ClientId}, d ≠ c → (beginPort v c).client d = v.client d := by
    intro v c d hd
    unfold beginPort
    split
    · exact client_setClient_ne v _ hd
    · rfl
  unfold releaseReset
  split
  · rename_i hh
    have h0 := fun c : ClientId => k.held hh (.client c)
    have k0 : ({ s with resetHeld := false } : State).PortsLegal :=
      ⟨k.mgmt, k.mgmtState, k.clients, fun e => Bool.noConfusion e⟩
    have k1 := hbegin k0 rfl (h0 .zero)
    have k2 := hbegin (c := .one) k1 (by rw [hheld]) (by rw [hne (by decide)]; exact h0 .one)
    have k3 := hbegin (c := .two) k2 (by rw [hheld, hheld])
      (by rw [hne (by decide), hne (by decide)]; exact h0 .two)
    exact hbegin (c := .three) k3 (by rw [hheld, hheld, hheld])
      (by rw [hne (by decide), hne (by decide), hne (by decide)]; exact h0 .three)
  · exact k

theorem legal_unit_reset : ({} : PortUnit).Legal :=
  ⟨Nat.zero_le _, fun h => Bool.noConfusion h, Nat.zero_le _, fun _ => rfl, fun _ => rfl⟩

/-- Every elementary change keeps the bounds of the ports. -/
theorem Act.portsLegal (h : Act s t) (k : s.PortsLegal) : t.PortsLegal := by
  cases h with
  | moves _ h => exact Move.portsLegal h k
  | wires | draws | cuts | scrambles | writes | erases | scans | sensesIn | idles | senses | enters | endsErase | suspended
    | expires | passes => exact portsLegal_congr k rfl rfl (fun _ => rfl) (fun _ => id)
  | cutsStore o => cases hw : o.work <;> exact portsLegal_congr k rfl rfl (fun _ => rfl) (fun _ => id)
  | programsStore o => cases hw : o.work <;> exact portsLegal_congr k rfl rfl (fun _ => rfl) (fun _ => id)
  | scramblesStore o => cases hw : o.work <;> exact portsLegal_congr k rfl rfl (fun _ => rfl) (fun _ => id)
  | erasesStore o => cases hw : o.work <;> exact portsLegal_congr k rfl rfl (fun _ => rfl) (fun _ => id)
  | lines c v => exact portsLegal_setClient k rfl Or.inl
  | empties c => exact portsLegal_setClient k rfl fun _ => Or.inl rfl
  | queues p tag r hr hq =>
    have l := legal_port k p
    refine portsLegal_setPort_of_state k ⟨?_, fun h => ?_, l.room, l.link, fun h => absurd hr h⟩ rfl (fun _ => Or.inl rfl)
      (fun _ e => e)
    · simpa using hq
    · obtain ⟨h1, -, h3⟩ := l.service h
      exact ⟨h1, by simp, h3⟩
  | answers p kind tag st h =>
    obtain ⟨hl, hst, hc⟩ := answerAtOnce_spec (legal_port k p) kind tag st
    simp only [ignores, Bool.or_eq_false_iff, beq_eq_false_iff_ne, ne_eq] at h
    refine portsLegal_setPort k hl (fun hp => ?_) (fun c hp => ⟨fun hn => ⟨?_, ?_⟩, fun hn => ?_⟩) (fun hh => ?_)
    · rw [hst]; exact h.2
    · subst hp; exact (k.clients c).table (hst ▸ hn)
    · subst hp; exact hc.trans ((k.clients c).causes (hst ▸ hn))
    · exact absurd (hst ▸ hn) h.2
    · rw [h.1] at hh; cases hh
  | sends p =>
    exact portsLegal_setPort_of_state k (legal_sent (legal_port k p)) rfl (fun _ => Or.inl rfl)
      (fun _ e => sending_sent (legal_port k p) e)
  | clears =>
    have hc : ∀ c, (clearVolatile s).client c = { line := (s.client c).line } := fun c => Quad.get_map ..
    refine ⟨legal_unit_reset, nofun, fun c => ?_, fun _ p => ?_⟩
    · rw [hc]; exact ⟨legal_unit_reset, fun _ => rfl, fun _ => rfl, fun _ => rfl⟩
    · cases p with
      | mgmt => exact ⟨rfl, rfl⟩
      | client c =>
        show ((clearVolatile s).client c).port.state = _ ∧ ((clearVolatile s).client c).port.sending = _
        rw [hc]
        exact ⟨rfl, rfl⟩
  | releases => exact portsLegal_releaseReset k
  | resets c h hh =>
    refine portsLegal_setPort k (legal_resetting _) (fun e => by cases e) (fun d hd => ?_) fun e => by rw [hh] at e; cases e
    cases hd
    refine ⟨fun _ => ⟨h.elim id fun hs => (k.clients c).table (by simp [hs]), rfl⟩, fun _ => rfl⟩
  | restarts c h =>
    have l := (k.clients c).port
    have hn : (s.client c).port.state ≠ .ready := by simp [h]
    refine portsLegal_setPort k (legal_state l (inService_of_not_ready l hn) (l.ready hn)) (fun e => by cases e)
      (fun d hd => ?_) (fun hh => ?_)
    · cases hd
      exact ⟨fun _ => ⟨(k.clients c).table hn, (k.clients c).causes hn⟩, nofun⟩
    · have := (k.held hh (.client c)).1
      rw [show (s.port (.client c)).state = _ from h] at this
      cases this
  | readies c h hh => exact portsLegal_readyClient k h hh
  | readiesMgmt hh =>
    unfold startMgmt
    split
    · rename_i hst
      have hn : s.mgmt.state ≠ .ready := by simp [hst]
      exact portsLegal_setPort (p := .mgmt) k
        (legal_state k.mgmt (inService_of_not_ready k.mgmt hn) (k.mgmt.ready hn)) (fun _ => by simp) (fun _ e => by cases e)
        fun e => by rw [hh] at e; cases e
    · exact k
  | refreshes =>
    exact portsLegal_refreshBoot (s := refreshRow s) (portsLegal_congr k rfl rfl (fun _ => rfl) (fun _ => id))

end

section
variable {s t : State}

/-! ## Levels -/

/-- The boot form of any bytes has a level of at most 3 (R145, R149). -/
theorem level_bootForm (bytes : List Byte) : (bootForm bytes).level ≤ 3 := by
  unfold bootForm
  split
  · exact Nat.le_refl 3
  · split
    · rename_i h
      simp only [Bool.and_eq_true, decide_eq_true_eq] at h
      exact h.2
    · exact Nat.le_refl 3

/-- A change that leaves every client's level and boot-entry copy as it is keeps the levels. -/
theorem levels_congr (k : s.LevelsLegal)
    (h : ∀ c, (t.client c).level = (s.client c).level ∧ (t.client c).bootCopy = (s.client c).bootCopy) :
    t.LevelsLegal := fun c => by
  obtain ⟨h1, h2⟩ := h c
  rw [h1, h2]
  exact k c

theorem levels_setClient (k : s.LevelsLegal) {c : ClientId} {v : ClientUnit} (hl : v.level ≤ 3)
    (hb : v.bootCopy = (s.client c).bootCopy) : (s.setClient c v).LevelsLegal := fun d => by
  rw [client_setClient]
  split
  · exact ⟨hl, hb ▸ (k c).2⟩
  · exact k d

theorem levels_setPort (k : s.LevelsLegal) {p : Port} {u : PortUnit} : (s.setPort p u).LevelsLegal := by
  cases p with
  | mgmt => exact k
  | client c => exact levels_setClient k (k c).1 rfl

theorem levels_updImage (k : s.LevelsLegal) {i : Nat} {f : Image → Image} : (s.updImage i f).LevelsLegal := by
  unfold State.updImage; split <;> exact k

theorem levels_refreshBoot (k : s.LevelsLegal) : (refreshBoot s).LevelsLegal := fun c => by
  simp only [refreshBoot, State.client, Quad.get_map]
  exact ⟨(k c).1, level_bootForm _⟩

/-- Every change made while settling or taking keeps the levels. -/
theorem Move.levels (h : Move s t) (k : s.LevelsLegal) : t.LevelsLegal := by
  cases h with
  | responds | raisesMgmt | raisesClient | marks | begins | polls => exact levels_setPort k
  | binds c => exact levels_setClient k (k c).1 rfl
  | levels c l hl => exact levels_setClient k hl rfl
  | revokes i =>
    refine levels_congr k fun c => ?_
    simp only [State.client, Quad.get_map, revokeAt]
    split <;> exact ⟨rfl, rfl⟩
  | images | maps | employs | serves | drops | quits | programs | erases | resumes | suspends | claims | admits | lodges
    | runs => exact k
  | grants _ h =>
    obtain ⟨_, _, _, rfl, _⟩ := grantSlot_eq h
    exact k
  | closes w =>
    rcases refresh_eq w (releaseSlot .settings { s with op := none }) with e | e <;> rw [e]
    · exact k
    · exact levels_refreshBoot (s := releaseSlot .settings { s with op := none }) k

theorem levels_bootBind (k : s.LevelsLegal) {c : ClientId} : (bootBind c s).LevelsLegal := by
  have kl : (setLevel c (s.client c).bootCopy.level s).LevelsLegal := levels_setClient k (k c).2 rfl
  unfold bootBind
  dsimp only
  split
  · exact kl
  · exact levels_setPort kl
  · split
    · refine levels_updImage ?_
      unfold setAperture
      exact levels_setClient kl (kl c).1 rfl
    · exact levels_setPort kl

/-- Every elementary change keeps the levels. -/
theorem Act.levels (h : Act s t) (k : s.LevelsLegal) : t.LevelsLegal := by
  cases h with
  | moves _ h => exact Move.levels h k
  | queues | answers | sends | resets | restarts => exact levels_setPort k
  | lines c | empties c => exact levels_setClient k (k c).1 rfl
  | wires | draws | cuts | scrambles | writes | erases | scans | sensesIn | idles | senses | enters | endsErase | suspended
    | expires | passes => exact k
  | cutsStore o => cases hw : o.work <;> exact k
  | programsStore o => cases hw : o.work <;> exact k
  | scramblesStore o => cases hw : o.work <;> exact k
  | erasesStore o => cases hw : o.work <;> exact k
  | clears =>
    intro c
    simp only [clearVolatile, State.client, Quad.get_map]
    exact ⟨Nat.le_refl 3, Nat.le_refl 3⟩
  | releases =>
    have hbegin : ∀ {v : State} {c : ClientId}, v.LevelsLegal → (beginPort v c).LevelsLegal := fun {v c} kv => by
      unfold beginPort
      split
      · exact levels_setPort (p := .client c) kv
      · exact kv
    unfold releaseReset
    split
    · exact hbegin (hbegin (hbegin (hbegin k)))
    · exact k
  | readies c => exact levels_setPort (p := .client c) (levels_bootBind k)
  | readiesMgmt => unfold startMgmt; split <;> exact k
  | refreshes => exact levels_refreshBoot (s := refreshRow s) k

/-! ## The boot lock -/

/-- The boot area is locked, with every byte but the lock mark as in the area `b`. -/
structure LockedAs (b : List Host.Cell) (s : State) : Prop where
  wf : Memory.wf s.boot = true
  locked : s.Locked
  same : ∀ a, a ≠ lockMarkAddress → Memory.read s.boot a = Memory.read b a

variable {b : List Host.Cell}

/-- A change of neither the boot area, the lock nor the work of the settings-store operation keeps a locked boot area. -/
theorem lockedAs_congr (k : LockedAs b s) (hb : t.boot = s.boot) (hl : t.lockInForce = s.lockInForce)
    (ho : ∀ o, t.op = some o → ∃ o', s.op = some o' ∧ o.work = o'.work) : LockedAs b t :=
  ⟨hb ▸ k.wf, ⟨hb ▸ k.locked.mark, hl ▸ k.locked.inForce, fun o h => by
    obtain ⟨o', h', e⟩ := ho o h
    exact e ▸ k.locked.work o' h'⟩, fun a ha => hb ▸ k.same a ha⟩

theorem lockedAs_setPort (k : LockedAs b s) {p : Port} {u : PortUnit} : LockedAs b (s.setPort p u) :=
  lockedAs_congr k (setPort_boot ..) (setPort_lockInForce ..) fun o h => ⟨o, (setPort_op s p u) ▸ h, rfl⟩

/-- With the mark set, what is read from the boot area leaves the lock IN_FORCE. -/
theorem lockedAs_refreshBoot (k : LockedAs b s) : LockedAs b (refreshBoot s) :=
  ⟨k.wf, ⟨k.locked.mark, bne_iff_ne.mpr k.locked.mark, k.locked.work⟩, k.same⟩

/-- A boot area that differs at its mark only, and whose mark is set, is locked as well. -/
theorem lockedAs_boot (k : LockedAs b s) {m : List Host.Cell} (hw : Memory.wf m = true)
    (hm : Memory.read m lockMarkAddress ≠ 0xFF)
    (ha : ∀ a, a ≠ lockMarkAddress → Memory.read m a = Memory.read s.boot a) {n : Nat} :
    LockedAs b { s with boot := m, freeCount := n } :=
  ⟨hw, ⟨hm, k.locked.inForce, k.locked.work⟩, fun a h => (ha a h).trans (k.same a h)⟩

/-- Every change made while settling or taking keeps a locked boot area. -/
theorem Move.lockedAs (h : Move s t) (k : LockedAs b s) : LockedAs b t := by
  have same : ∀ o, s.op = some o → ∃ o', s.op = some o' ∧ o.work = o'.work := fun o h => ⟨o, h, rfl⟩
  cases h with
  | responds | raisesMgmt | raisesClient | marks | begins | polls => exact lockedAs_setPort k
  | images | maps | employs | binds | levels | revokes | serves | drops | quits | programs | erases | resumes | suspends
    | claims | lodges => exact lockedAs_congr k rfl rfl same
  | admits w hw => exact ⟨k.wf, ⟨k.locked.mark, k.locked.inForce, by rintro _ ⟨⟩; exact hw k.locked.inForce⟩, k.same⟩
  | runs o ho => exact lockedAs_congr k rfl rfl (by rintro _ ⟨⟩; exact ⟨o, ho, rfl⟩)
  | grants _ h =>
    obtain ⟨_, _, _, rfl, _⟩ := grantSlot_eq h
    exact lockedAs_congr k rfl rfl same
  | closes w =>
    have k' : LockedAs b (releaseSlot .settings { s with op := none }) := lockedAs_congr k rfl rfl (by rintro _ ⟨⟩)
    rcases refresh_eq w (releaseSlot .settings { s with op := none }) with e | e <;> rw [e]
    · exact lockedAs_congr k' rfl rfl (by rintro _ ⟨⟩)
    · exact lockedAs_refreshBoot k'

/-- One byte written over the mark leaves every other byte of the boot area. -/
theorem read_write_mark (m : List Host.Cell) (v : Byte) {a : Nat} (h : a ≠ lockMarkAddress) :
    Memory.read (Memory.writeN m lockMarkAddress [v]) a = Memory.read m a :=
  Memory.read_writeN_outside m lockMarkAddress a [v] (by simp only [List.length_singleton]; omega)

theorem read_mark_write {m : List Host.Cell} (hw : Memory.wf m = true) (v : Byte) :
    Memory.read (Memory.writeN m lockMarkAddress [v]) lockMarkAddress = v := by
  simp only [Memory.writeN, Memory.read_write hw, if_true]

/-- Every elementary change keeps a locked boot area: the one operation on the boot area that may run writes the mark, and
leaves it other than 0xFF. -/
theorem Act.lockedAs (h : Act s t) (k : LockedAs b s) : LockedAs b t := by
  have same : ∀ o, s.op = some o → ∃ o', s.op = some o' ∧ o.work = o'.work := fun o h => ⟨o, h, rfl⟩
  cases h with
  | moves _ h => exact Move.lockedAs h k
  | queues | answers | sends | resets | restarts => exact lockedAs_setPort k
  | wires | lines | draws | cuts | scrambles | writes | erases | empties | scans | sensesIn | idles | senses | enters
    | endsErase | suspended | expires => exact lockedAs_congr k rfl rfl same
  | cutsStore o ho =>
    obtain ⟨hboot, hentry⟩ := k.locked.work o ho
    cases hw : o.work with
    | protectBit | eraseRow => exact lockedAs_congr k rfl rfl same
    | bootEntry c v => exact absurd hw (hentry c v)
    | eraseBoot => exact absurd hw hboot
    | lockMark =>
      refine lockedAs_boot k (Memory.wf_writeN k.wf _ _) ?_ fun a ha => read_write_mark _ _ ha
      have hcut := read_mark_write k.wf (cutByte (Memory.read s.boot lockMarkAddress) 0x00 (Config.freeByte s.freeCount))
      exact fun e => k.locked.mark ((cutByte_of_ne k.locked.mark).symm.trans (hcut.symm.trans e))
  | programsStore o ho =>
    obtain ⟨hboot, hentry⟩ := k.locked.work o ho
    cases hw : o.work with
    | protectBit | eraseRow => exact lockedAs_congr k rfl rfl same
    | bootEntry c v => exact absurd hw (hentry c v)
    | eraseBoot => exact absurd hw hboot
    | lockMark =>
      refine lockedAs_boot (n := s.freeCount) k (Memory.wf_writeN k.wf _ _) ?_ fun a ha => read_write_mark _ _ ha
      exact (read_mark_write k.wf 0x00).trans_ne (by decide)
  | scramblesStore o ho =>
    cases hw : o.work with
    | eraseBoot => exact absurd hw (k.locked.work o ho).1
    | protectBit | eraseRow | bootEntry | lockMark => exact lockedAs_congr k rfl rfl same
  | erasesStore o ho =>
    cases hw : o.work with
    | eraseBoot => exact absurd hw (k.locked.work o ho).1
    | protectBit | eraseRow | bootEntry | lockMark => exact lockedAs_congr k rfl rfl same
  | clears => exact ⟨k.wf, ⟨k.locked.mark, rfl, by rintro _ ⟨⟩⟩, k.same⟩
  | releases =>
    have hbegin : ∀ {v : State} {c : ClientId}, LockedAs b v → LockedAs b (beginPort v c) := fun {v c} kv => by
      unfold beginPort
      split
      · exact lockedAs_setPort (lockedAs_setPort kv)
      · exact kv
    unfold releaseReset
    split
    · exact hbegin (hbegin (hbegin (hbegin (lockedAs_congr k rfl rfl same))))
    · exact k
  | readies c =>
    have kl : LockedAs b (setLevel c (s.client c).bootCopy.level s) := lockedAs_congr k rfl rfl same
    refine lockedAs_setPort (s := bootBind c s) (p := .client c) ?_
    unfold bootBind
    dsimp only
    split
    · exact kl
    · exact lockedAs_setPort kl
    · split
      · unfold bindAperture raiseBindings
        exact lockedAs_congr kl (updImage_boot ..) (updImage_lockInForce ..)
          fun o h => ⟨o, by rwa [updImage_op] at h, rfl⟩
      · exact lockedAs_setPort kl
  | readiesMgmt =>
    unfold startMgmt
    split
    · exact lockedAs_congr k rfl rfl same
    · exact k
  | refreshes => exact lockedAs_refreshBoot (s := refreshRow s) (lockedAs_congr k rfl rfl same)
  | passes =>
    refine lockedAs_congr k rfl rfl fun o h => ?_
    obtain ⟨o', ho', rfl⟩ := Option.map_eq_some_iff.mp h
    refine ⟨o', ho', ?_⟩
    unfold SettingsOp.later
    split <;> rfl

end

/-- Settles O57: every change of a port record keeps its bounds, and only READY ports take, queue and bind. -/
theorem everyStepKeepsThePortsLegal : Obligations.EveryStepKeepsThePortsLegal :=
  ⟨fun _ _ k h => step_keeps (P := State.PortsLegal) (fun _ _ k => portsLegal_congr k rfl rfl (fun _ => rfl) fun _ => id)
      (fun _ _ ha k => Act.portsLegal ha k) k h,
    fun _ _ k h => step_keeps (P := State.LevelsLegal) (fun _ _ k => k) (fun _ _ ha k => Act.levels ha k) k h⟩

/-- Settles O60: with the lock IN_FORCE no operation on a boot entry is let in, and neither programming the mark nor a cut of
it makes the mark 0xFF. -/
theorem lockedBootAreaStaysAsItIs : Obligations.LockedBootAreaStaysAsItIs := by
  intro s t hc hl h
  have k := step_keeps (P := LockedAs s.boot) (fun _ _ k => lockedAs_congr k rfl rfl fun o h => ⟨o, h, rfl⟩)
    (fun _ _ ha k => Act.lockedAs ha k) ⟨hc.boot, hl, fun _ _ => rfl⟩ h
  exact ⟨k.locked, k.same⟩

end Sys2Proof.Proofs.Invariants

/-! # Binding counts and the laws of the directory (R5, R12, R22, R30, R138): the statement O19

The counts alone are kept by BIND, UNBIND and REVOKE in any state that meets them: one record changes with its entry's
count, or all records of an entry with the whole count. That every step keeps all the laws is the chain of the laws
`Kept`, command by command. -/

namespace Sys2Proof.Proofs.Bindings

open Sys2Proof Sys2Proof.Machine Sys2Proof.Proofs.Rules

section
variable {s t : State} {c : ClientId}

/-! ## The counts -/

/-- A change that leaves the directory and the binding tables as they are keeps the counts. -/
theorem counted_congr (k : s.Counted) (hdir : t.dir = s.dir)
    (hap : ∀ c, (t.client c).apertures = (s.client c).apertures) : t.Counted := fun i im him => by
  rw [Kept.totalBound_congr hap]
  exact k i im (Kept.image_eq hdir i ▸ him)

theorem counted_setPort (k : s.Counted) {p : Port} {u : PortUnit} : (s.setPort p u).Counted :=
  counted_congr k (setPort_dir ..) fun _ => Invariants.apertures_setPort ..

/-- A binding of an EMPTY aperture raises the count of its entry with the number of its records (R34). -/
theorem counted_bindAperture (hc : s.Canonical) (k : s.Counted) {ap : Nat} (hap : s.aperture c ap = none)
    (e : Nat × Image) (boot : Bool) : (bindAperture c ap e boot s).Counted := by
  intro i im him
  have htables := totalBound_setAperture hc.apertures i c ap (some (boundRecord e boot))
  have htotal : totalBound i (bindAperture c ap e boot s) = totalBound i (setAperture c ap (some (boundRecord e boot)) s) :=
    Kept.totalBound_congr (fun d => by simp [bindAperture, raiseBindings, State.client]) i
  rw [htotal]
  rw [bindAperture, raiseBindings, image_updImage (s := setAperture c ap (some (boundRecord e boot)) s) hc.dir] at him
  rw [hap, boundTo_none, boundTo_boundRecord] at htables
  simp only [beq_iff_eq, Bool.false_eq_true, if_false] at htables
  split at him
  · rename_i hi
    obtain ⟨im', him', rfl⟩ := Option.map_eq_some_iff.mp him
    have := k i im' him'
    rw [if_pos hi.symm] at htables
    simp only
    omega
  · rename_i hi
    rw [if_neg (Ne.symm hi)] at htables
    have := k i im him
    omega

/-- An UNBIND takes a BOUND record away with one of its entry's count, and a REVOKED one with none (R37). -/
theorem counted_releaseRecord (hc : s.Canonical) (k : s.Counted) {ap : Nat} {r : Aperture} (hap : s.aperture c ap = some r) :
    (releaseRecord r (setAperture c ap none s)).Counted := by
  intro i im him
  have htables := totalBound_setAperture hc.apertures i c ap none
  rw [hap] at htables
  rw [boundTo_some, boundTo_none] at htables
  simp only [Bool.false_eq_true, if_false] at htables
  have htotal : totalBound i (releaseRecord r (setAperture c ap none s)) = totalBound i (setAperture c ap none s) :=
    Kept.totalBound_congr (fun d => by unfold releaseRecord; split <;> simp [lowerBindings, State.client]) i
  rw [htotal]
  unfold releaseRecord at him
  split at him
  · rename_i hrev
    have := k i im him
    simp only [hrev, Bool.not_true, Bool.false_and, Bool.false_eq_true, if_false] at htables
    omega
  · rename_i hrev
    rw [lowerBindings, image_updImage (s := setAperture c ap none s) hc.dir] at him
    simp only [hrev, Bool.not_false, Bool.true_and, beq_iff_eq] at htables
    split at him
    · rename_i hi
      obtain ⟨im', him', rfl⟩ := Option.map_eq_some_iff.mp him
      have := k i im' him'
      rw [if_pos hi.symm] at htables
      rw [(Kept.retireIfIdle_spec _).2.2.2.2.2.2.1]
      simp only
      omega
    · rename_i hi
      have := k i im him
      rw [if_neg (Ne.symm hi)] at htables
      omega

/-- A REVOKE takes every BOUND record of its entry away with the whole count (R41). -/
theorem counted_revokes (hc : s.Canonical) (k : s.Counted) {i : Nat} {im : Image} :
    ({ s with clients := s.clients.map fun _ u => revokeAt i u }.setImage i
      (some (retireIfIdle { im with bindings := 0 }))).Counted := by
  have hclient : ∀ d, ({ s with clients := s.clients.map fun _ u => revokeAt i u } : State).client d
      = revokeAt i (s.client d) := fun d => Quad.get_map ..
  have htotal : ∀ j, totalBound j { s with clients := s.clients.map fun _ u => revokeAt i u }
      = if j = i then 0 else totalBound j s := fun j => by
    have hpart : ∀ d, boundIn j (revokeAt i (s.client d)).apertures
        = if j = i then 0 else boundIn j (s.client d).apertures := fun d => by
      have hsum := (Kept.revokeAt_apertures i _ (hc.apertures d)).2.1 j
      have hout : boundIn j ((s.client d).apertures.filter fun e => boundTo i e.2)
          = if j = i then boundIn j (s.client d).apertures else 0 := by
        unfold boundIn
        rw [List.filter_filter]
        split
        · rename_i hj; simp [hj]
        · rename_i hj
          rw [List.length_eq_zero_iff, List.filter_eq_nil_iff]
          intro e _
          cases e.2 with
          | none => simp [boundTo_none]
          | some r => simp only [boundTo_some, Bool.and_eq_true, beq_iff_eq, not_and]; omega
      split at hout <;> simp_all
    simp only [totalBound_eq, hclient, hpart]
    split <;> rfl
  intro j jm hj
  rw [Kept.image_setImage (s := { s with clients := s.clients.map fun _ u => revokeAt i u }) hc.dir] at hj
  show jm.bindings = totalBound j { s with clients := s.clients.map fun _ u => revokeAt i u }
  rw [htotal]
  split at hj
  · rename_i hji
    rw [if_pos hji, ← Option.some.inj hj, (Kept.retireIfIdle_spec _).2.2.2.2.2.2.1]
  · rename_i hji
    rw [if_neg hji]
    exact k j jm hj

/-! ## BIND, UNBIND and REVOKE -/

theorem canonical_serving (hc : s.Canonical) {p : Port} {tag : Byte} {r : Request} : (serving p tag r s).Canonical :=
  Invariants.canonical_setPort hc

theorem counted_respond (k : s.Counted) {p : Port} {st : Status} {rs : List Byte} : (respond p st rs s).Counted :=
  counted_setPort k

theorem counted_takeBind (hc : s.Canonical) (k : s.Counted) {ap g : Nat} {n : Word32} : (takeBind c ap n g s).Counted := by
  unfold takeBind
  split
  · exact counted_respond k
  · split
    · exact counted_respond k
    · rename_i hap
      split
      · exact counted_respond k
      · split
        · exact counted_respond k
        · exact counted_respond (counted_bindAperture hc k (by simpa using hap) _ _)

theorem counted_takeUnbind (hc : s.Canonical) (k : s.Counted) {ap : Nat} : (takeUnbind c ap s).Counted := by
  unfold takeUnbind
  split
  · exact counted_respond k
  · split
    · exact counted_respond k
    · rename_i hap
      exact counted_respond (counted_releaseRecord hc k hap)

theorem counted_takeRevoke (hc : s.Canonical) (k : s.Counted) {i : Nat} : (takeRevoke i s).Counted := by
  unfold takeRevoke
  split
  · exact counted_respond k
  · split
    · exact counted_respond k
    · split
      · exact counted_respond k
      · exact counted_respond (counted_revokes hc k)

/-! ## Every step -/

/-- Where the laws hold with canonical tables, and ports that are not READY have no records, every command keeps them. -/
theorem exec_kept {i : Instr} (k : Kept 0 [] s) (hp : s.PortsLegal) (h : exec i s = .next t) : Kept 0 [] t := by
  cases hr : requestOf i with
  | some e =>
    obtain ⟨p, tag, r⟩ := e
    rw [exec_request hr] at h
    cases h
    exact k.arrive
  | none =>
    cases i with
    | powerOn => cases h; exact (Kept.assertReset s).releaseReset
    | resetAsserted => cases h; exact Kept.assertReset s
    | resetReleased => cases h; exact k.releaseReset
    | portResetAsserted c => cases h; exact k.assertPortReset
    | portResetReleased c => cases h; exact k.releasePortReset (hp.clients c).table
    | wpChange => cases h; exact k.wires
    | requestFrameArrival => cases h; exact k.frameArrives
    | responseFrameSent => cases h; exact k.frameSent
    | senseCompletion => cases h; exact k.concluded fun _ => k.senseDone
    | blankCheckCompletion => cases h; exact k.concluded fun _ => k.blankCheckDone
    | programCompletion => cases h; exact k.concluded fun _ => k.programDone
    | programTimeout => cases h; exact k.concluded fun _ => k.programTimedOut
    | readBackCompletion => cases h; exact k.concluded fun _ => k.readBackDone
    | eraseCompletion => cases h; exact k.concluded fun _ => k.eraseCompletes
    | eraseTimeout => cases h; exact k.concluded fun _ => k.eraseTimesOut
    | suspendCompletion => cases h; exact k.concluded fun _ => k.suspendDone
    | lockoutExpiry => cases h; exact k.concluded fun _ => k.lockoutExpires
    | settingsProgramCompletion => cases h; exact k.concluded fun _ => k.settingsProgramDone
    | settingsProgramTimeout => cases h; exact k.concluded fun _ => k.settingsProgramTimedOut
    | settingsEraseCompletion => cases h; exact k.concluded fun _ => k.settingsEraseDone
    | settingsEraseTimeout => cases h; exact k.concluded fun _ => k.settingsEraseTimedOut
    | settingsReadCompletion =>
      cases h
      refine k.getD fun v hv => ?_
      unfold settingsReadDone at hv
      split at hv
      · rename_i hc
        cases hv
        exact k.settingsRead hc.1
      · cases hv
    | scanSenseCompletion =>
      cases h
      refine k.getD fun v hv => ?_
      unfold scanSenseCompletes at hv
      split at hv
      · rename_i hc
        cases hv
        exact k.scanSenseDone hc.1 rfl fun d hd => (hp.clients d).table (by simp [hd])
      · cases hv
    | _ => cases hr

/-- Every step keeps the laws. -/
theorem step_lawful (hc : s.Canonical) (hp : s.PortsLegal) (hl : s.Lawful) (h : step s = .next t) : t.Lawful := by
  unfold step at h
  split at h
  · cases h
    exact (hl.kept hc).tick.lawful
  · rename_i rest hpend
    have hp' : ({ s with pending := rest } : State).PortsLegal :=
      Invariants.portsLegal_congr hp rfl rfl (fun _ => rfl) fun _ => id
    exact (exec_kept (hl.kept hc).pends hp' h).lawful

end

/-- Settles O19: BIND, UNBIND and REVOKE change a count with the records it counts, and every command keeps the laws. -/
theorem bindingCountsStayTheNumberOfBoundRecords : Obligations.BindingCountsStayTheNumberOfBoundRecords := by
  refine ⟨fun s t hc k => ⟨fun c tag ap name g ha h => ?_, fun c tag ap ha h => ?_, fun tag i ha h => ?_⟩,
    fun s t => step_lawful⟩
  · rw [exec_attends rfl ha] at h
    cases h
    exact counted_takeBind (canonical_serving hc) (counted_setPort k)
  · rw [exec_attends rfl ha] at h
    cases h
    exact counted_takeUnbind (canonical_serving hc) (counted_setPort k)
  · rw [exec_attends rfl ha] at h
    cases h
    exact counted_takeRevoke (canonical_serving hc) (counted_setPort k)

end Sys2Proof.Proofs.Bindings

/-! # Steps, the queue of waiting commands and the flash: the statements O1, O3 and O55

A command is a chain of elementary changes, none of which looks at the queue. Settling and taking write no flash: only the
ends of program phases and erases do, and of settings-store operations. -/

namespace Sys2Proof.Proofs.Steps

open Sys2Proof Sys2Proof.Machine Sys2Proof.Proofs.Rules

section
variable {s t u : State}

/-! ## The queue of waiting commands -/

theorem pending_bootBind (c : ClientId) (s : State) : (bootBind c s).pending = s.pending := by
  unfold bootBind
  dsimp only
  split
  · rfl
  · rfl
  · split
    · exact updImage_pending ..
    · rfl

theorem pending_releaseReset (s : State) : (releaseReset s).pending = s.pending := by
  have hbegin : ∀ (v : State) (c : ClientId), (beginPort v c).pending = v.pending := fun v c => by
    unfold beginPort; split <;> rfl
  unfold releaseReset
  split
  · simp only [Four.all, List.foldl, hbegin]
  · rfl

/-- Every change made while settling or taking keeps the waiting commands. -/
theorem Move.pending (h : Move s t) : t.pending = s.pending := by
  cases h with
  | responds | marks | begins | polls => exact setPort_pending ..
  | grants _ h =>
    obtain ⟨_, _, _, rfl, _⟩ := Invariants.grantSlot_eq h
    rfl
  | closes w => cases w <;> rfl
  | _ => rfl

/-- Every elementary change keeps the waiting commands. -/
theorem Act.pending (h : Act s t) : t.pending = s.pending := by
  cases h with
  | moves _ h => exact Move.pending h
  | queues | answers | sends => exact setPort_pending ..
  | cutsStore o => cases hw : o.work <;> rfl
  | programsStore o => cases hw : o.work <;> rfl
  | scramblesStore o => cases hw : o.work <;> rfl
  | erasesStore o => cases hw : o.work <;> rfl
  | releases => exact pending_releaseReset s
  | readies c => exact pending_bootBind c s
  | readiesMgmt => unfold startMgmt; split <;> rfl
  | _ => rfl

theorem exec_pending {c : Instr} (h : exec c s = .next t) : t.pending = s.pending :=
  (exec_acts c s t h).keeps (P := fun v => v.pending = s.pending) (fun _ _ ha hv => (Act.pending ha).trans hv) rfl

/-- Every command answers a next state. -/
theorem exec_next (c : Instr) (s : State) : ∃ t, exec c s = .next t := by cases c <;> exact ⟨_, rfl⟩

/-! ## The flash -/

/-- Two states hold the same array and the same settings store. -/
structure SameFlash (s t : State) : Prop where
  mem : t.mem = s.mem
  row : t.row = s.row
  boot : t.boot = s.boot

namespace SameFlash

protected theorem refl (s : State) : SameFlash s s := ⟨rfl, rfl, rfl⟩

protected theorem trans (h : SameFlash s t) (h' : SameFlash t u) : SameFlash s u :=
  ⟨h'.mem.trans h.mem, h'.row.trans h.row, h'.boot.trans h.boot⟩

theorem setPort {p : Port} {v : PortUnit} : SameFlash s (s.setPort p v) :=
  ⟨setPort_mem .., setPort_row .., setPort_boot ..⟩

theorem setBank (h : SameFlash s t) {b : BankId} {v : Bank} : SameFlash s (t.setBank b v) := ⟨h.mem, h.row, h.boot⟩

theorem raise (h : SameFlash s t) {p : Port} {c : Cause} : SameFlash s (raise p c t) := h.trans setPort

theorem ofMove (h : Move s t) : SameFlash s t := by
  cases h with
  | responds | marks | begins | polls => exact setPort
  | grants _ h =>
    obtain ⟨_, _, _, rfl, _⟩ := Invariants.grantSlot_eq h
    exact ⟨rfl, rfl, rfl⟩
  | closes w => cases w <;> exact ⟨rfl, rfl, rfl⟩
  | _ => exact ⟨rfl, rfl, rfl⟩

/-- Settling and taking write no flash. -/
theorem moves (h : SameFlash s t) (h' : Moves t u) : SameFlash s u :=
  h'.keeps (fun _ _ hm hs => hs.trans (ofMove hm)) h

theorem ofMoves (h : Moves s t) : SameFlash s t := (SameFlash.refl s).moves h

/-! ### Commands -/

theorem enqueue {p : Port} {tag : Byte} {r : Request} : SameFlash s (enqueue p tag r s) := by
  unfold Machine.enqueue
  split
  · exact (setPort (s := s)).moves (Moves.refl _).takesAt
  · exact setPort

theorem arrive {p : Port} {tag : Byte} {r : Request} : SameFlash s (arrive p tag r s) := by
  unfold Machine.arrive
  split
  · exact .refl s
  · split
    · exact setPort
    · exact enqueue

theorem answerFrame {p : Port} {bytes : List Byte} {st : Status} : SameFlash s (answerFrame p bytes st s) :=
  SameFlash.trans (t := { s with freeCount := s.freeCount + (echoed s.freeCount bytes).2.2 }) ⟨rfl, rfl, rfl⟩ setPort

theorem frameArrives {p : Port} {bytes : List Byte} : SameFlash s (frameArrives p bytes s) := by
  unfold Machine.frameArrives
  split
  · exact .refl s
  · split
    · exact answerFrame
    · split
      · exact answerFrame
      · split
        · exact answerFrame
        · split
          · exact answerFrame
          · exact enqueue

theorem frameSent {p : Port} : SameFlash s (frameSent p s) := by
  unfold Machine.frameSent
  split
  · exact .refl s
  · exact (setPort (s := s)).moves (Moves.refl _).takesAt

theorem releaseReset : SameFlash s (releaseReset s) := by
  have hbegin : ∀ {v : State} {c : ClientId}, SameFlash s v → SameFlash s (beginPort v c) := fun {v c} h => by
    unfold beginPort
    split
    · exact h.trans (setPort.trans setPort)
    · exact h
  unfold Machine.releaseReset
  split
  · exact hbegin (hbegin (hbegin (hbegin ⟨rfl, rfl, rfl⟩)))
  · exact .refl s

theorem foldl {α : Type} {f : State → α → State} (hf : ∀ v a, SameFlash v (f v a)) (l : List α) (h : SameFlash s t) :
    SameFlash s (l.foldl f t) := by
  induction l generalizing t with
  | nil => exact h
  | cons a l ih => exact ih (h.trans (hf t a))

theorem dropReadsAt {p : Port} {b : BankId} : SameFlash s (dropReadsAt p s b) := by
  have hlower : SameFlash s ((waitingEntries p (s.bank b)).foldl (fun t i => lowerReads i t)
      (s.setBank b (dropReads p (s.bank b)))) :=
    foldl (fun v i => ofMoves (Moves.refl v).lowerReads) _ ⟨rfl, rfl, rfl⟩
  unfold Machine.dropReadsAt
  dsimp only
  split
  · exact hlower.trans setPort
  · exact hlower

theorem emptyTable {c : ClientId} : SameFlash s (emptyTable c s) := by
  refine foldl (fun v e => ?_) _ ⟨rfl, rfl, rfl⟩
  unfold releaseAperture
  split
  · exact ofMoves (Moves.refl v).releaseRecord
  · exact .refl v

theorem assertPortReset {c : ClientId} : SameFlash s (assertPortReset c s) := by
  unfold Machine.assertPortReset
  dsimp only
  split
  · exact ⟨rfl, rfl, rfl⟩
  · split
    · refine SameFlash.moves ?_ (Moves.refl _).conclude
      have hdrop : SameFlash s (Four.all.foldl (Machine.dropReadsAt (.client c)) (setLine c true s)) :=
        foldl (fun _ _ => dropReadsAt) _ ⟨rfl, rfl, rfl⟩
      exact SameFlash.raise ((hdrop.trans emptyTable).trans (setPort (p := .client c)))
    · exact ⟨rfl, rfl, rfl⟩
    · exact ⟨rfl, rfl, rfl⟩

theorem bootBind {c : ClientId} : SameFlash s (bootBind c s) := by
  unfold Machine.bootBind
  dsimp only
  split
  · exact ⟨rfl, rfl, rfl⟩
  · exact ⟨rfl, rfl, rfl⟩
  · split
    · exact ⟨updImage_mem .., updImage_row .., updImage_boot ..⟩
    · exact ⟨rfl, rfl, rfl⟩

theorem readyClient {c : ClientId} : SameFlash s (readyClient c s) :=
  bootBind.trans (setPort (p := .client c))

theorem releasePortReset {c : ClientId} : SameFlash s (releasePortReset c s) := by
  unfold Machine.releasePortReset
  dsimp only
  split
  · exact ⟨rfl, rfl, rfl⟩
  · split
    · split
      · have hline : SameFlash s (setLine c false s) := ⟨rfl, rfl, rfl⟩
        exact (hline.trans readyClient).moves (Moves.refl _).takesAll
      · exact ⟨rfl, rfl, rfl⟩
    · exact ⟨rfl, rfl, rfl⟩

theorem startClient {c : ClientId} : SameFlash s (startClient s c) := by
  unfold Machine.startClient
  split
  · exact readyClient
  · exact .refl s

theorem startMgmt : SameFlash s (startMgmt s) := by
  unfold Machine.startMgmt; split <;> exact ⟨rfl, rfl, rfl⟩

theorem scanEnds : SameFlash s (scanEnds s) := by
  have hclients : SameFlash s (Four.all.foldl Machine.startClient { s with scanStage := .finished }) :=
    foldl (fun _ _ => startClient) _ ⟨rfl, rfl, rfl⟩
  exact (hclients.trans startMgmt).raise

theorem judge {n : Nat} : SameFlash s (judge n s) := by
  unfold Machine.judge; split <;> exact ⟨rfl, rfl, rfl⟩

theorem scanSenseDone {n : Nat} : SameFlash s (scanSenseDone n s) := by
  have hjudge := (SameFlash.refl s).setBank (b := bankOf n)
    (v := { s.bank (bankOf n) with activity := .idle, openLine := none }) |>.trans (judge (n := n))
  unfold Machine.scanSenseDone scanOn
  split
  · exact hjudge.setBank
  · exact (hjudge.trans scanEnds).moves (Moves.refl _).takesAll

/-! ### Events -/

theorem senseDone {b : BankId} (he : senseDone b s = some t) : SameFlash s t := by
  unfold Machine.senseDone at he
  split at he
  · cases he
    exact (SameFlash.refl s).setBank.moves (Moves.refl _).completeRead
  · dsimp only at he
    split at he
    · cases he
      exact (SameFlash.refl s).setBank.moves (Moves.refl _).verifyReadDone
    · cases he
      exact ⟨rfl, rfl, rfl⟩
  · cases he

theorem endProgram {b : BankId} {q : ProgramSequence} {o : ProgramOutcome} : SameFlash s (endProgram b q o s) :=
  ofMoves (Moves.refl s).quitBank.programEnded

theorem blankCheckDone {b : BankId} (he : blankCheckDone b s = some t) : SameFlash s t := by
  unfold Machine.blankCheckDone at he
  split at he
  · split at he
    · cases he; exact endProgram
    · split at he
      · cases he; exact endProgram
      · cases he; exact ⟨rfl, rfl, rfl⟩
  · cases he

theorem programDone {b : BankId} (he : programDone b s = some t) : SameFlash s t := by
  unfold Machine.programDone at he
  split at he
  · cases he; exact ⟨rfl, rfl, rfl⟩
  · cases he

theorem suspendDone {b : BankId} (he : suspendDone b s = some t) : SameFlash s t := by
  unfold Machine.suspendDone at he
  split at he
  · cases he; exact ⟨rfl, rfl, rfl⟩
  · cases he

theorem lockoutExpires {b : BankId} (he : lockoutExpires b s = some t) : SameFlash s t := by
  unfold Machine.lockoutExpires at he
  split at he
  · split at he
    · cases he; exact ⟨rfl, rfl, rfl⟩
    · cases he
  · cases he

theorem concluded {o : Option State} (ho : ∀ v, o = some v → SameFlash s v) : SameFlash s (concluded o s) := by
  cases o with
  | none => exact .refl s
  | some v => exact (ho v rfl).moves (Moves.refl v).conclude

theorem settingsReadCompletion : SameFlash s ((settingsReadDone s).getD s) := by
  unfold settingsReadDone
  split <;> exact ⟨rfl, rfl, rfl⟩

theorem scanSenseCompletion : SameFlash s ((scanSenseCompletes s).getD s) := by
  unfold scanSenseCompletes
  split
  · exact scanSenseDone
  · exact .refl s

end SameFlash

/-- Two states hold the same settings store. -/
def SameStore (s t : State) : Prop := t.row = s.row ∧ t.boot = s.boot

theorem SameFlash.store (h : SameFlash s t) : SameStore s t := ⟨h.row, h.boot⟩

theorem SameStore.then (h : SameStore s t) (h' : SameFlash t u) : SameStore s u :=
  ⟨h'.row.trans h.1, h'.boot.trans h.2⟩

/-- The end of a program phase leaves the settings store. -/
theorem store_readBackDone {b : BankId} {e : Bool} (he : readBackDone b e s = some t) : SameStore s t := by
  unfold readBackDone at he
  split at he
  · split at he
    · cases he; exact SameStore.then (t := programLine _ s) ⟨rfl, rfl⟩ SameFlash.endProgram
    · cases he; exact SameStore.then (t := cutLine _ s) ⟨rfl, rfl⟩ SameFlash.endProgram
  · cases he

theorem store_programTimedOut {b : BankId} (he : programTimedOut b s = some t) : SameStore s t := by
  unfold programTimedOut at he
  split at he
  · cases he; exact SameStore.then (t := cutLine _ s) ⟨rfl, rfl⟩ SameFlash.endProgram
  · cases he

theorem store_eraseCompletes {b : BankId} (he : eraseCompletes b s = some t) : SameStore s t := by
  unfold eraseCompletes at he
  obtain ⟨e, -, rfl⟩ := Option.map_eq_some_iff.mp he
  exact SameStore.then (t := endErase b { s with mem := Memory.eraseN s.mem (lineAddress e.sector 0 0) Config.sectorBytes })
    ⟨rfl, rfl⟩ (.ofMoves (Moves.refl _).eraseDone)

theorem store_eraseTimesOut {b : BankId} (he : eraseTimesOut b s = some t) : SameStore s t := by
  unfold eraseTimesOut at he
  obtain ⟨e, -, rfl⟩ := Option.map_eq_some_iff.mp he
  obtain ⟨m, k, hscramble, -, -⟩ := scrambleSector_spec e.sector s
  rw [hscramble]
  exact SameStore.then (t := (endErase b { s with mem := m, freeCount := k }).updSector e.sector
    fun r => { r with failed := true }) ⟨rfl, rfl⟩ (.ofMoves (Moves.refl _).eraseDone)

theorem SameStore.concluded {o : Option State} (ho : ∀ v, o = some v → SameStore s v) : SameStore s (concluded o s) := by
  cases o with
  | none => exact ⟨rfl, rfl⟩
  | some v => exact (ho v rfl).then (.ofMoves (Moves.refl v).conclude)

/-- The end of a settings-store operation leaves the array. -/
theorem mem_endSettings {w : SettingsWork} {st : Status} (h : t.mem = s.mem) : (endSettings w st t).mem = s.mem :=
  (SameFlash.ofMoves (Moves.refl t).endSettings).mem.trans h

theorem mem_programSettings (w : SettingsWork) (s : State) : (programSettings w s).mem = s.mem := by cases w <;> rfl
theorem mem_eraseSettings (w : SettingsWork) (s : State) : (eraseSettings w s).mem = s.mem := by cases w <;> rfl
theorem mem_cutSettings (w : SettingsWork) (s : State) : (cutSettings w s).mem = s.mem := by cases w <;> rfl
theorem mem_scrambleSettings (w : SettingsWork) (s : State) : (scrambleSettings w s).mem = s.mem := by cases w <;> rfl

theorem mem_settingsProgramDone {e : Bool} (he : settingsProgramDone e s = some t) : t.mem = s.mem := by
  unfold settingsProgramDone at he
  split at he
  · split at he
    · cases he
    · split at he
      · cases he; exact mem_endSettings (mem_programSettings ..)
      · cases he; exact mem_endSettings (mem_cutSettings ..)
  · cases he

theorem mem_settingsProgramTimedOut (he : settingsProgramTimedOut s = some t) : t.mem = s.mem := by
  unfold settingsProgramTimedOut at he
  split at he
  · split at he
    · cases he
    · cases he; exact mem_endSettings (mem_cutSettings ..)
  · cases he

theorem mem_settingsEraseDone (he : settingsEraseDone s = some t) : t.mem = s.mem := by
  unfold settingsEraseDone at he
  split at he
  · split at he
    · cases he; exact mem_endSettings (mem_eraseSettings ..)
    · cases he
  · cases he

theorem mem_settingsEraseTimedOut (he : settingsEraseTimedOut s = some t) : t.mem = s.mem := by
  unfold settingsEraseTimedOut at he
  split at he
  · split at he
    · cases he; exact mem_endSettings (mem_scrambleSettings ..)
    · cases he
  · cases he

theorem mem_concluded {o : Option State} (ho : ∀ v, o = some v → v.mem = s.mem) : (concluded o s).mem = s.mem := by
  cases o with
  | none => rfl
  | some v => exact (SameFlash.ofMoves (Moves.refl v).conclude).mem.trans (ho v rfl)

/-- A command that ends no program phase and no erase, and no settings-store operation, and does not assert RESET, writes no
flash. -/
def Writes : Instr → Bool
  | .powerOn | .resetAsserted => true
  | .readBackCompletion _ _ | .programTimeout _ | .eraseCompletion _ | .eraseTimeout _ => true
  | .settingsProgramCompletion _ | .settingsProgramTimeout | .settingsEraseCompletion | .settingsEraseTimeout => true
  | _ => false

theorem sameFlash_of_not_writes {c : Instr} (hw : Writes c = false) (h : exec c s = .next t) : SameFlash s t := by
  cases hr : requestOf c with
  | some e =>
    rw [exec_request (p := e.1) (tag := e.2.1) (r := e.2.2) hr] at h
    cases h
    exact .arrive
  | none =>
    cases c with
    | resetReleased => cases h; exact .releaseReset
    | portResetAsserted => cases h; exact .assertPortReset
    | portResetReleased => cases h; exact .releasePortReset
    | wpChange => cases h; exact ⟨rfl, rfl, rfl⟩
    | requestFrameArrival => cases h; exact .frameArrives
    | responseFrameSent => cases h; exact .frameSent
    | senseCompletion => cases h; exact .concluded fun _ => .senseDone
    | blankCheckCompletion => cases h; exact .concluded fun _ => .blankCheckDone
    | programCompletion => cases h; exact .concluded fun _ => .programDone
    | suspendCompletion => cases h; exact .concluded fun _ => .suspendDone
    | lockoutExpiry => cases h; exact .concluded fun _ => .lockoutExpires
    | settingsReadCompletion => cases h; exact .settingsReadCompletion
    | scanSenseCompletion => cases h; exact .scanSenseCompletion
    | powerOn | resetAsserted | readBackCompletion | programTimeout | eraseCompletion | eraseTimeout
      | settingsProgramCompletion | settingsProgramTimeout | settingsEraseCompletion | settingsEraseTimeout => cases hw
    | _ => cases hr

end

/-! ## The statements -/

/-- Settles O1. -/
theorem stepRunsTheFrontCommand : Obligations.StepRunsTheFrontCommand := fun _ _ _ => rfl

/-- Settles O3: every command answers a next state, by a chain of changes none of which touches the queue. -/
theorem everyCommandGoesOnAndKeepsTheQueue : Obligations.EveryCommandGoesOnAndKeepsTheQueue := fun c s => by
  obtain ⟨t, h⟩ := exec_next c s
  exact ⟨t, h, exec_pending h⟩

/-- Settles O55: the commands that write flash are the ends of program phases and erases, which write the array alone, and
the ends of settings-store operations, which write the store alone. -/
theorem flashChangesOnlyAtItsEvents : Obligations.FlashChangesOnlyAtItsEvents := by
  intro c s t h hpower hreset
  cases hw : Writes c with
  | false =>
    have hsame := sameFlash_of_not_writes hw h
    exact ⟨fun _ _ _ _ => hsame.mem, fun _ _ _ _ => hsame.store⟩
  | true =>
    cases c with
    | powerOn => exact absurd rfl hpower
    | resetAsserted => exact absurd rfl hreset
    | readBackCompletion b e =>
      cases h
      exact ⟨fun hn => absurd rfl (hn b e), fun _ _ _ _ => SameStore.concluded fun _ => store_readBackDone⟩
    | programTimeout b =>
      cases h
      exact ⟨fun _ hn => absurd rfl (hn b), fun _ _ _ _ => SameStore.concluded fun _ => store_programTimedOut⟩
    | eraseCompletion b =>
      cases h
      exact ⟨fun _ _ hn => absurd rfl (hn b), fun _ _ _ _ => SameStore.concluded fun _ => store_eraseCompletes⟩
    | eraseTimeout b =>
      cases h
      exact ⟨fun _ _ _ hn => absurd rfl (hn b), fun _ _ _ _ => SameStore.concluded fun _ => store_eraseTimesOut⟩
    | settingsProgramCompletion e =>
      cases h
      exact ⟨fun _ _ _ _ => mem_concluded fun _ => mem_settingsProgramDone, fun hn => absurd rfl (hn e)⟩
    | settingsProgramTimeout =>
      cases h
      exact ⟨fun _ _ _ _ => mem_concluded fun _ => mem_settingsProgramTimedOut, fun _ hn => absurd rfl hn⟩
    | settingsEraseCompletion =>
      cases h
      exact ⟨fun _ _ _ _ => mem_concluded fun _ => mem_settingsEraseDone, fun _ _ hn => absurd rfl hn⟩
    | settingsEraseTimeout =>
      cases h
      exact ⟨fun _ _ _ _ => mem_concluded fun _ => mem_settingsEraseTimedOut, fun _ _ _ hn => absurd rfl hn⟩
    | _ => cases hw

end Sys2Proof.Proofs.Steps

/-! # The events of the banks (R74 to R86): the statements O44, O45, O46, O49 and O52

Each event is said once, by what it does where it can come; the statements put the command's row and the flash it leaves
around it. -/

namespace Sys2Proof.Proofs.Events

open Sys2Proof Sys2Proof.Machine Sys2Proof.Proofs.Rules

section
variable {s : State} {b : BankId} {q : ProgramSequence} {e : EraseContext}

/-! ## What program phases and erases leave in the array -/

/-- Byte for byte, what a failed or cut program phase leaves in its targets (R78). -/
theorem getElem?_cutBytes (m : List Host.Cell) (a k n : Nat) (vs : List Byte) :
    (cutBytes m a k vs)[n]? = vs[n]?.map fun v => cutByte (Memory.read m (a + n)) v (Config.freeByte (k + n)) := by
  induction vs generalizing a k n with
  | nil => rfl
  | cons v vs ih =>
    cases n with
    | zero => rfl
    | succ n =>
      simp only [cutBytes, List.getElem?_cons_succ, ih]
      congr 2
      funext v
      rw [Nat.add_right_comm a, Nat.add_right_comm k]
      rfl

/-- The bytes written read as written. -/
theorem read_writeN_inside {m : List Host.Cell} (hm : Memory.wf m = true) (a n : Nat) {vs : List Byte} {v : Byte}
    (h : vs[n]? = some v) : Memory.read (Memory.writeN m a vs) (a + n) = v := by
  induction vs generalizing m a n with
  | nil => cases h
  | cons w vs ih =>
    cases n with
    | zero =>
      cases h
      rw [Nat.add_zero, Memory.writeN, Memory.read_writeN_outside _ _ _ _ (Or.inl (Nat.lt_succ_self a)),
        Memory.read_write hm, if_pos rfl]
    | succ n =>
      rw [Memory.writeN, ← Nat.add_assoc, Nat.add_right_comm]
      exact ih (Memory.wf_write hm a w) (a + 1) n h

/-- A byte that was to be programmed holds at least the bits of its value (R78). -/
theorem cutByte_and (v free : Byte) : cutByte 0xFF v free &&& v = v := by
  ext i
  simpa [cutByte] using fun h => Or.inl h

/-- A failed or cut program phase changes its targets alone, keeps a target byte that was not blank, and leaves at least the
bits of its value in one that was (R78). -/
theorem cutLine_spec (q : ProgramSequence) (s : State) : ∃ mem k, cutLine q s = { s with mem := mem, freeCount := k }
    ∧ (∀ x, (x < lineAddress q.sector q.line q.first ∨ lineAddress q.sector q.line q.first + q.values.length ≤ x) →
      Memory.read mem x = Memory.read s.mem x)
    ∧ (Memory.wf s.mem = true → Memory.wf mem = true
      ∧ ∀ n v, q.values[n]? = some v →
        if Memory.read s.mem (lineAddress q.sector q.line q.first + n) = 0xFF
        then Memory.read mem (lineAddress q.sector q.line q.first + n) &&& v = v
        else Memory.read mem (lineAddress q.sector q.line q.first + n)
          = Memory.read s.mem (lineAddress q.sector q.line q.first + n)) := by
  refine ⟨_, _, rfl, fun x hx => Memory.read_writeN_outside _ _ _ _ (by rwa [length_cutBytes]),
    fun hw => ⟨Memory.wf_writeN hw _ _, fun n v hv => ?_⟩⟩
  have hread := read_writeN_inside hw (lineAddress q.sector q.line q.first) n
    ((getElem?_cutBytes s.mem (lineAddress q.sector q.line q.first) s.freeCount n q.values).trans (congrArg _ hv))
  rw [hread]
  split
  · rename_i hblank; rw [hblank]; exact cutByte_and ..
  · rename_i hkept; exact cutByte_of_ne hkept

/-- Where a line starts. -/
theorem lineAddress_line (n l : Nat) : lineAddress n l 0 = n * 65536 + l * 256 := Nat.add_zero _

/-- Where a sector starts. -/
theorem lineAddress_sector (n : Nat) : lineAddress n 0 0 = n * 65536 := by
  rw [lineAddress_line, Nat.zero_mul, Nat.add_zero]

/-- A cut or timed-out erase leaves every byte outside its sector (R82). -/
theorem scrambleSector_outside (n : Nat) (s : State) : ∃ mem k, scrambleSector n s = { s with mem := mem, freeCount := k }
    ∧ ∀ x, x < n * 65536 ∨ (n + 1) * 65536 ≤ x → Memory.read mem x = Memory.read s.mem x := by
  obtain ⟨mem, k, heq, -, hout⟩ := scrambleSector_spec n s
  refine ⟨mem, k, heq, fun x hx => hout x ?_⟩
  rwa [lineAddress_sector, ← Nat.succ_mul]

/-- An erase of a sector blanks its bytes and no other (R81). -/
theorem eraseN_sector {m : List Host.Cell} (hm : Memory.wf m = true) (n : Nat) :
    (∀ x, n * 65536 ≤ x → x < (n + 1) * 65536 →
      Memory.read (Memory.eraseN m (lineAddress n 0 0) Config.sectorBytes) x = 0xFF)
    ∧ ∀ x, x < n * 65536 ∨ (n + 1) * 65536 ≤ x →
      Memory.read (Memory.eraseN m (lineAddress n 0 0) Config.sectorBytes) x = Memory.read m x := by
  simp only [Memory.read_eraseN hm, lineAddress_sector, ← Nat.succ_mul]
  exact ⟨fun x h1 h2 => if_pos ⟨h1, h2⟩, fun x h => if_neg fun hin => by omega⟩

/-! ## Program sequences -/

/-- Every target byte is acceptable: it reads 0xFF or holds its value (R77). -/
theorem allAcceptable_iff (old values : List Byte) :
    allAcceptable old values = true ↔ ∀ p ∈ old.zip values, p.1 = 0xFF ∨ p.1 = p.2 := by
  simp [allAcceptable, acceptable]

/-- A target byte that is neither 0xFF nor its value is not acceptable. -/
theorem allAcceptable_eq_false_iff (old values : List Byte) :
    allAcceptable old values = false ↔ ∃ p ∈ old.zip values, p.1 ≠ 0xFF ∧ p.1 ≠ p.2 := by
  rw [← Bool.not_eq_true, allAcceptable_iff]
  simp only [not_forall, not_or, exists_prop]

/-- Bytes that already hold their values are acceptable. -/
theorem allAcceptable_self (values : List Byte) : allAcceptable values values = true := by
  rw [allAcceptable_iff]
  induction values with
  | nil => rintro p ⟨⟩
  | cons v values ih =>
    rintro p hp
    rw [List.zip_cons_cons, List.mem_cons] at hp
    rcases hp with rfl | hp
    · exact Or.inr rfl
    · exact ih p hp

theorem blankCheckDone_of_not_acceptable (ha : (s.bank b).activity = .programming q .blankCheck)
    (hv : allAcceptable (targetBytes q s) q.values = false) :
    blankCheckDone b s = some (programEnded q.issuer .notBlank (quitBank b s)) := by
  simp [blankCheckDone, ha, hv, endProgram]

theorem blankCheckDone_of_equal (ha : (s.bank b).activity = .programming q .blankCheck) (hv : targetBytes q s = q.values) :
    blankCheckDone b s = some (programEnded q.issuer .done (quitBank b s)) := by
  simp [blankCheckDone, ha, hv, endProgram, allAcceptable_self]

theorem blankCheckDone_of_acceptable (ha : (s.bank b).activity = .programming q .blankCheck)
    (hv : allAcceptable (targetBytes q s) q.values = true) (hne : targetBytes q s ≠ q.values) :
    blankCheckDone b s = some (s.setBank b { s.bank b with activity := .programming q (.program 0) }) := by
  simp [blankCheckDone, ha, hv, hne, enterPhase]

theorem programDone_eq {n : Nat} (ha : (s.bank b).activity = .programming q (.program n)) :
    programDone b s = some (s.setBank b { s.bank b with activity := .programming q .readBack }) := by
  simp [programDone, ha, enterPhase]

theorem programTimedOut_eq {n : Nat} (ha : (s.bank b).activity = .programming q (.program n)) :
    programTimedOut b s = some (programEnded q.issuer .failed (quitBank b (cutLine q s))) := by
  simp [programTimedOut, ha, endProgram]

theorem readBackDone_equal (ha : (s.bank b).activity = .programming q .readBack) :
    readBackDone b true s = some (programEnded q.issuer .done (quitBank b (programLine q s))) := by
  simp [readBackDone, ha, endProgram]

theorem readBackDone_differs (ha : (s.bank b).activity = .programming q .readBack) :
    readBackDone b false s = some (programEnded q.issuer .failed (quitBank b (cutLine q s))) := by
  simp [readBackDone, ha, endProgram]

/-! ## Erases -/

/-- The state with an erase of a bank ended: IDLE, no open line, no context, no slot (R81, R82). -/
theorem endErase_eq (b : BankId) (s : State) : endErase b s = releaseSlot (.bank b)
    (s.setBank b { s.bank b with activity := .idle, openLine := none, erase := none }) := rfl

theorem eraseCompletes_eq (h : runningErase (s.bank b) = some e) : eraseCompletes b s = some (eraseDone e.job e.sector
    .completion (endErase b { s with mem := Memory.eraseN s.mem (lineAddress e.sector 0 0) Config.sectorBytes })) := by
  rw [eraseCompletes, h, Option.map_some]

/-- The time limit of an erase: no byte outside the sector has changed, the sector is failed, the job has the timeout
(R82). -/
theorem eraseTimesOut_eq (h : runningErase (s.bank b) = some e) : ∃ mem k,
    eraseTimesOut b s = some (eraseDone e.job e.sector .timeout
      ((releaseSlot (.bank b) ({ s with mem := mem, freeCount := k }.setBank b
        { s.bank b with activity := .idle, openLine := none, erase := none })).updSector e.sector
          fun r => { r with failed := true }))
    ∧ ∀ x, x < e.sector * 65536 ∨ (e.sector + 1) * 65536 ≤ x → Memory.read mem x = Memory.read s.mem x := by
  obtain ⟨mem, k, heq, hout⟩ := scrambleSector_outside e.sector s
  refine ⟨mem, k, ?_, hout⟩
  rw [eraseTimesOut, h, Option.map_some, heq]
  rfl

theorem suspendDone_eq {n : Nat} (ha : (s.bank b).activity = .suspending n) (he : (s.bank b).erase = some e)
    (hs : e.suspended = false) :
    suspendDone b s = some (releaseSlot (.bank b) (s.setBank b { s.bank b with
      activity := .idle, openLine := none, erase := some { e with suspended := true, served := false } })) := by
  rw [suspendDone, Invariants.runningErase_of (Or.inr ⟨n, ha⟩) he hs, ha]

theorem lockoutExpires_eq (ha : (s.bank b).activity = .erasing) (he : (s.bank b).erase = some e) (hs : e.suspended = false)
    (hl : 0 < e.lockout) (ht : e.runningTime + e.lockout < 2000000) :
    lockoutExpires b s = some (s.setBank b { s.bank b with
      erase := some { e with runningTime := e.runningTime + e.lockout, lockout := 0 } }) := by
  rw [lockoutExpires, Invariants.runningErase_of (Or.inl ha) he hs, ha]
  exact if_pos ⟨hl, ht⟩

/-! ## The resume of a suspended erase -/

theorem lodgeResume_some (hf : (s.bank b).isFree = true) (he : (s.bank b).erase = some e) (hs : e.suspended = true)
    (hc : (s.bank b).claim = .none) (hr : e.served = true ∨ ∀ a ∈ (s.bank b).waiting, a.isRead = false) :
    lodgeResume s b = some (lodge (.bank b) (s.setBank b { s.bank b with claim := .resume })) := by
  have hany : (e.served || !(s.bank b).waiting.any Access.isRead) = true := by
    rcases hr with h | h
    · simp [h]
    · simpa using Or.inr h
  simp only [lodgeResume, he, hs, hf, hc, hany, Bool.true_and, beq_self_eq_true, if_true]

theorem lodgeResume_unserved (he : (s.bank b).erase = some e) (hn : e.served = false)
    (hr : ∃ a ∈ (s.bank b).waiting, a.isRead = true) : lodgeResume s b = none := by
  rw [lodgeResume_eq_none]
  intro e' he'
  rw [he] at he'
  cases he'
  have hany : (s.bank b).waiting.any Access.isRead = true := List.any_eq_true.mpr hr
  simp [hn, hany]

theorem start_resume (hf : (s.bank b).isFree = true) (he : (s.bank b).erase = some e) (hs : e.suspended = true)
    (hc : (s.bank b).claim = .resume) (hh : s.holdsSlot (.bank b) = true) : start s b = some (resume b e s) := by
  simp [start, hf, he, hs, hc, hh]

/-! ## Reads and verify reads -/

/-- The counts and the flag at the completion of a read access, by its entry (R54). -/
theorem countCompletion_eq (a : ReadAccess) (s : State) : countCompletion a s = match a.entry with
    | some i => lowerReads i (if a.request = .fetch ∧ a.dropped = false
        then s.updImage i fun im => { im with accessed := true } else s)
    | none => s := by
  unfold countCompletion
  cases a.entry <;> rfl

/-- What a verify read of a job does with the bytes of its line: it goes on, marks, or fails (R116, R117). -/
def verifyCompleted (n i checked : Nat) (crc : Word32) (im : Image) (length : Nat) (expected : Word32) (line : List Byte)
    (u : State) : State :=
  let checked' := checked + (line.take (min 256 (length - checked))).length
  let crc' := crc32Feed crc (line.take (min 256 (length - checked)))
  if checked' < length then
    issue n (im.first + (checked' / 256 + 1) / 256) ((checked' / 256 + 1) % 256)
      (.verifyRead n (im.first + (checked' / 256 + 1) / 256) ((checked' / 256 + 1) % 256))
      (u.updJob n fun j => { j with work := .verify i false checked' crc' })
  else if crc32Finish crc' = expected then
    issue n im.first 0 (.program { issuer := .publishedMark n, sector := im.first, line := 0, first := 64, values := [0x00] })
      (u.updJob n fun j => { j with work := .verify i true checked' crc' })
  else raise .mgmt .jobFailed (endJob n .crcMismatch (some checked')
    (u.updImage i fun im => { im with state := .bad .crcMismatch }))

theorem verifyReadDone_eq {n i checked : Nat} {crc : Word32} {j : Job} {im : Image} {length : Nat} {expected : Word32}
    (hj : s.job n = some j) (hw : j.work = .verify i false checked crc) (hi : s.image i = some im)
    (hp : im.published = some (length, expected)) (line : List Byte) :
    verifyReadDone n line s = verifyCompleted n i checked crc im length expected line s := by
  obtain ⟨number, work, sector, l, active⟩ := j
  cases hw
  simp only [verifyReadDone, hj, hi, hp]
  rfl

theorem senseDone_verify {n sector line : Nat} (ha : (s.bank b).activity = .sensing (.verify (some n) sector line)) :
    senseDone b s = some (verifyReadDone n (Memory.readN s.mem (sector * 65536 + line * 256) 256)
      (s.setBank b { s.bank b with activity := .lineOpen, openLine := some (sector, line) })) := by
  simp only [senseDone, ha, lineBytesAt, lineAddress_line]
  rfl

theorem senseDone_dropped {sector line : Nat} (ha : (s.bank b).activity = .sensing (.verify none sector line)) :
    senseDone b s = some (s.setBank b { s.bank b with activity := .lineOpen, openLine := some (sector, line) }) := by
  simp only [senseDone, ha]

theorem senseDone_read {a : ReadAccess} (ha : (s.bank b).activity = .sensing (.read a)) : senseDone b s = some
    (completeRead a (s.setBank b { s.bank b with activity := .lineOpen, openLine := some (a.sector, a.line) })) := by
  simp only [senseDone, ha]

/-- An event of the flash that comes, with what it makes due. -/
theorem concluded_some {o : Option State} {t : State} (h : o = some t) : concluded o s = conclude t := by rw [h]; rfl

end

/-! ## The statements -/

/-- Settles O44: the read access completes at its sense, counts first, response last. -/
theorem senseCompletionCompletesARead : Obligations.SenseCompletionCompletesARead := by
  intro b a s ha
  refine congrArg Host.Outcome.next ((concluded_some (senseDone_read ha)).trans (congrArg conclude ?_))
  rw [completeRead, countCompletion_eq]
  rfl

/-- Settles O45: the line sensed is opened, and the job's next step is that of any verify read of that job and entry. -/
theorem senseCompletionAdvancesAVerify : Obligations.SenseCompletionAdvancesAVerify := by
  intro b job sector line s ha
  refine ⟨?_, ?_⟩
  · rintro rfl
    exact congrArg Host.Outcome.next (concluded_some (senseDone_dropped ha))
  · rintro n j i checked crc im length expected rfl hj hw hi hp
    refine ⟨?_, fun line u huj hui => verifyReadDone_eq huj hw hui hp line⟩
    refine congrArg Host.Outcome.next ((concluded_some (senseDone_verify ha)).trans (congrArg conclude ?_))
    exact verifyReadDone_eq (s := s.setBank b _) hj hw hi hp _

/-- Settles O46: the three branches of the blank check, and one account of what a failed program phase leaves for both its
ends. -/
theorem blankCheckProgramAndReadBack : Obligations.BlankCheckProgramAndReadBack := by
  refine ⟨fun b q s ha => ⟨fun hbad => ?_, fun heq => ?_, fun hgood hne => ?_⟩, fun b q s => ?_⟩
  · exact congrArg Host.Outcome.next
      (concluded_some (blankCheckDone_of_not_acceptable ha ((allAcceptable_eq_false_iff ..).mpr hbad)))
  · exact congrArg Host.Outcome.next (concluded_some (blankCheckDone_of_equal ha heq))
  · exact congrArg Host.Outcome.next
      (concluded_some (blankCheckDone_of_acceptable ha ((allAcceptable_iff ..).mpr hgood) hne))
  · obtain ⟨mem, k, hcut, hout, hwf⟩ := cutLine_spec q s
    refine ⟨fun n ha => congrArg Host.Outcome.next (concluded_some (programDone_eq ha)),
      fun ha => congrArg Host.Outcome.next (concluded_some (readBackDone_equal ha)), mem, k, fun hw => ?_,
      fun ha => ?_, fun n ha => ?_⟩
    · obtain ⟨hmem, hbytes⟩ := hwf hw
      refine ⟨hmem, fun x => ⟨hout x, ?_⟩⟩
      rintro n v rfl hv
      exact hbytes n v hv
    · exact congrArg Host.Outcome.next (concluded_some (hcut ▸ readBackDone_differs ha))
    · exact congrArg Host.Outcome.next (concluded_some (hcut ▸ programTimedOut_eq ha))

/-- Settles O49: the running erase ends, with the sector blank or left indeterminate and every other byte as it was. -/
theorem eraseEndsByCompletionOrTimeout : Obligations.EraseEndsByCompletionOrTimeout := by
  intro b e s hw ha he hs
  have hrun := Invariants.runningErase_of ha he hs
  obtain ⟨hin, hout⟩ := eraseN_sector hw e.sector
  obtain ⟨mem, k, htimeout, hkeep⟩ := eraseTimesOut_eq hrun
  exact ⟨⟨_, congrArg Host.Outcome.next (concluded_some (eraseCompletes_eq hrun)), hin, hout⟩,
    mem, k, congrArg Host.Outcome.next (concluded_some htimeout), hkeep⟩

/-- Settles O52. -/
theorem suspendLockoutAndResume : Obligations.SuspendLockoutAndResume := by
  refine ⟨fun b e s he hs => ⟨fun n ha => ?_, fun ha hl ht => ?_⟩,
    fun b e s hf he hs => ⟨fun hc hr => lodgeResume_some hf he hs hc hr, fun _ hn hr => lodgeResume_unserved he hn hr,
      fun hc hh => start_resume hf he hs hc hh⟩⟩
  · exact congrArg Host.Outcome.next (concluded_some (suspendDone_eq ha he hs))
  · exact congrArg Host.Outcome.next (concluded_some (lockoutExpires_eq ha he hs hl ht))

end Sys2Proof.Proofs.Events

/-! # What a take reads while its port serves

The takes of the requests read the state with the request in service at its port; every item but that port's record reads as
in the state before, and a change of an entry or of an aperture commutes with the service. -/

namespace Sys2Proof.Proofs.Serving

open Sys2Proof Sys2Proof.Machine Sys2Proof.Proofs.Rules

section
variable {s : State} {p : Port} {tag : Byte} {r : Request}

/-! ## At every port -/

@[simp] theorem serving_sector (n : Nat) : (serving p tag r s).sector n = s.sector n := by cases p <;> rfl

@[simp] theorem serving_lockInForce : (serving p tag r s).lockInForce = s.lockInForce := by cases p <;> rfl

@[simp] theorem serving_isProtected (n : Nat) : (serving p tag r s).isProtected n = s.isProtected n := by cases p <;> rfl

/-- An entry's image changes beside the service. -/
theorem setImage_serving (i : Nat) (o : Option Image) : (serving p tag r s).setImage i o = serving p tag r (s.setImage i o) := by
  cases p <;> rfl

theorem updImage_serving (i : Nat) (f : Image → Image) :
    (serving p tag r s).updImage i f = serving p tag r (s.updImage i f) := by
  unfold State.updImage
  rw [serving_image]
  cases s.image i with
  | none => rfl
  | some im => exact setImage_serving i _

theorem port_updImage (i : Nat) (f : Image → Image) : (s.updImage i f).port p = s.port p := by
  unfold State.updImage
  cases s.image i with
  | none => rfl
  | some im => cases p <;> rfl

theorem resetHeld_updImage (i : Nat) (f : Image → Image) : (s.updImage i f).resetHeld = s.resetHeld := by
  unfold State.updImage
  cases s.image i <;> rfl

/-- An aperture of a client port changes beside the port's service. -/
theorem setAperture_serving (c : ClientId) (ap : Nat) (v : Option Aperture) :
    setAperture c ap v (serving (.client c) tag r s) = serving (.client c) tag r (setAperture c ap v s) := by
  simp only [setAperture, serving, State.setPort, State.port, State.setClient, State.client, Quad.get_set_same, Quad.set_set]

theorem port_setAperture (c : ClientId) (ap : Nat) (v : Option Aperture) : (setAperture c ap v s).port p = s.port p := by
  cases p with
  | mgmt => rfl
  | client d =>
    simp only [State.port, setAperture, client_setClient]
    split
    · rename_i hd; rw [hd]
    · rfl

/-! ## At the management port -/

@[simp] theorem serving_freeSlot : freeSlot (serving .mgmt tag r s) = freeSlot s := rfl

@[simp] theorem serving_jobsFull : jobsFull (serving .mgmt tag r s) = jobsFull s := rfl

@[simp] theorem serving_lowestFree : lowestFree (serving .mgmt tag r s) = lowestFree s := rfl

@[simp] theorem serving_greatestGeneration (name : Word32) :
    greatestGeneration (serving .mgmt tag r s) name = greatestGeneration s name := rfl

@[simp] theorem serving_extentRefusal (first count : Nat) :
    extentRefusal (serving .mgmt tag r s) first count = extentRefusal s first count := rfl

@[simp] theorem serving_writeRefusal (im : Image) (offset length : Nat) :
    writeRefusal (serving .mgmt tag r s) im offset length = writeRefusal s im offset length := rfl

@[simp] theorem serving_publishRefusal (im : Image) (length : Nat) :
    publishRefusal (serving .mgmt tag r s) im length = publishRefusal s im length := rfl

@[simp] theorem serving_eraseRefusal (n : Nat) : eraseRefusal (serving .mgmt tag r s) n = eraseRefusal s n := rfl

@[simp] theorem serving_underErase (n : Nat) : underErase (serving .mgmt tag r s) n = underErase s n := rfl

/-! ## Ranges -/

/-- A check that is written as the negation of what it asks for. -/
theorem check_fails {b : Bool} {a : Prop} (h : b = true ↔ a) : ((!b) = true) = ¬ a := by
  rw [← h, Bool.not_eq_true', Bool.not_eq_true]

theorem not_decide_and {a b : Prop} [Decidable a] [Decidable b] : ((!(decide a && decide b)) = true) = ¬ (a ∧ b) :=
  check_fails (by simp only [Bool.and_eq_true, decide_eq_true_eq])

theorem not_indexInRange (i : Nat) : ((!indexInRange i) = true) = ¬ (1 ≤ i ∧ i ≤ 256) := not_decide_and

/-- The first of several checks that fails answers its status; where none does, the take goes on. -/
theorem elim_check {α : Type} {c : Prop} [Decidable c] (st : Status) (o : Option Status) (go : α) (refuse : Status → α) :
    (if c then some st else o).elim go refuse = if c then refuse st else o.elim go refuse := by
  split <;> rfl

/-- A client port's number names it. -/
theorem clientOf_number (c : ClientId) : clientOf (c.pos + 1) = some c := by cases c <;> rfl

/-- The numbers that name a client port. -/
theorem clientOf_eq_none (n : Nat) : clientOf n = none ↔ ¬ (1 ≤ n ∧ n ≤ 4) := by
  match n with
  | 0 => simp [clientOf]
  | 1 => simp [clientOf]
  | 2 => simp [clientOf]
  | 3 => simp [clientOf]
  | 4 => simp [clientOf]
  | n + 5 => simp [clientOf]

/-- All eight slots are occupied (R94). -/
theorem jobsFull_eq (s : State) : jobsFull s = [1, 2, 3, 4, 5, 6, 7, 8].all fun n => (s.job n).isSome := by
  rw [Bool.eq_iff_iff]
  simp only [jobsFull, freeSlot, slotNumbers, Option.isNone_iff_eq_none, List.find?_eq_none, List.all_eq_true]
  exact forall₂_congr fun n _ => by rw [Option.isSome_iff_ne_none]

/-- One byte holds its number. -/
theorem be_one (n : Nat) : be 1 n = [BitVec.ofNat 8 n] := by simp [be]

end

end Sys2Proof.Proofs.Serving

/-! # Requests that report (R25 to R27, R32, R101, R140, R169): the statements O11, O13 and O14

Each is answered at its take; the takes read the state beside the service, and the lists of FIND and JOBS have a lemma
each that says what they hold. -/

namespace Sys2Proof.Proofs.Reports

open Sys2Proof Sys2Proof.Machine Sys2Proof.Proofs.Rules Sys2Proof.Proofs.Serving

section
variable {s : State} {tag : Byte}

/-! ## IDENTIFY -/

/-- The identity of the part, byte for byte (R169). -/
theorem identity_eq (p : Port) (s : State) : identity p s =
    [0x5D, 0x17, 0x44, 0x08, Config.revision, BitVec.ofNat 8 p.number, 4, 64, 1, 0, 1, 0, 1, 0, 4, 8, 4, 8, 2]
      ++ [if s.lockInForce then 1 else 0] := by
  rw [identity, be_one]
  rfl

theorem exec_identify_attends {p : Port} (h : s.Attends p) :
    exec (.identify p tag) s = .next (takeIdentify p (serving p tag .identify s)) := by
  rw [exec_attends rfl h]
  cases p <;> rfl

/-! ## ENTRY -/

/-- The report of a FREE entry (R26). -/
theorem entryReport_none (i : Nat) : entryReport i none = be 2 i ++ [0x00] ++ (0x00 :: blanks 4) ++ (0x00 :: blanks 2)
    ++ (0x00 :: blanks 1) ++ (0x00 :: blanks 2) ++ (0x00 :: blanks 1) ++ (0x00 :: blanks 1) ++ (0x00 :: blanks 4)
    ++ (0x00 :: blanks 4) ++ [0, 0, 0] ++ (0x00 :: blanks 1) ++ [0] := rfl

/-! ## FIND -/

/-- Ascending order of generation. -/
def Older (e f : Nat × Image) : Prop := e.2.generation ≤ f.2.generation

/-- FIND's list is an insertion sort. -/
theorem insertByGeneration_perm (e : Nat × Image) (l : List (Nat × Image)) : (insertByGeneration e l).Perm (e :: l) := by
  induction l with
  | nil => rfl
  | cons h t ih =>
    unfold insertByGeneration
    split
    · rfl
    · exact (ih.cons h).trans (.swap e h t)

theorem sortedByGeneration_perm (l : List (Nat × Image)) : (sortedByGeneration l).Perm l := by
  induction l with
  | nil => rfl
  | cons e l ih => exact (insertByGeneration_perm e _).trans (ih.cons e)

theorem pairwise_insertByGeneration (e : Nat × Image) {l : List (Nat × Image)} (hl : l.Pairwise Older) :
    (insertByGeneration e l).Pairwise Older := by
  induction l with
  | nil => exact List.pairwise_singleton ..
  | cons h t ih =>
    obtain ⟨hh, ht⟩ := List.pairwise_cons.mp hl
    unfold insertByGeneration
    split
    · rename_i hle
      refine List.pairwise_cons.mpr ⟨fun f hf => ?_, hl⟩
      rcases List.mem_cons.mp hf with rfl | hf
      · exact hle
      · exact Nat.le_trans hle (hh f hf)
    · rename_i hgt
      refine List.pairwise_cons.mpr ⟨fun f hf => ?_, ih ht⟩
      rcases List.mem_cons.mp ((insertByGeneration_perm e t).mem_iff.mp hf) with rfl | hf
      · exact Nat.le_of_not_le hgt
      · exact hh f hf

theorem pairwise_sortedByGeneration (l : List (Nat × Image)) : (sortedByGeneration l).Pairwise Older := by
  induction l with
  | nil => exact .nil
  | cons e l ih => exact pairwise_insertByGeneration e ih

/-- The keys of a canonical table rise strictly. -/
theorem pairwise_keys {α : Type} [DecidableEq α] {d : α} {l : List (Nat × α)} {lo : Nat} (h : Table.wfFrom d lo l = true) :
    (∀ e ∈ l, lo ≤ e.1) ∧ l.Pairwise fun e f => e.1 < f.1 := by
  induction l generalizing lo with
  | nil => exact ⟨by simp, .nil⟩
  | cons e l ih =>
    simp only [Table.wfFrom, Bool.and_eq_true, decide_eq_true_eq] at h
    obtain ⟨⟨hlo, -⟩, hl⟩ := h
    obtain ⟨hkeys, hpair⟩ := ih hl
    refine ⟨fun f hf => ?_, List.pairwise_cons.mpr ⟨fun f hf => hkeys f hf, hpair⟩⟩
    rcases List.mem_cons.mp hf with rfl | hf
    · exact hlo
    · exact Nat.le_trans hlo (Nat.le_of_succ_le (hkeys f hf))

/-- No entry of a name is listed twice. -/
theorem nodup_namedEntries (hw : Table.wf none s.dir = true) (name : Word32) : (namedEntries s name).Nodup := by
  refine List.Pairwise.filterMap (S := (· ≠ ·)) _ (fun e f hlt x hx y hy => ?_) (pairwise_keys hw).2
  rintro rfl
  have key : ∀ {g : Nat × Option Image}, (match g.2 with
      | some im => if im.name = some name then some (g.1, im) else none
      | none => none) = some x → x.1 = g.1 := fun {g} hg => by
    split at hg
    · split at hg
      · cases hg; rfl
      · cases hg
    · cases hg
  exact Nat.ne_of_lt hlt ((key hx).symm.trans (key hy))

/-! ## SECTOR and JOBS -/

/-- The erase item of a SECTOR report (R140). -/
theorem eraseCode_underErase (s : State) (n : Nat) : eraseCode (underErase s n) = match (s.bank (Four.nth (n / 64))).erase with
    | some e => if e.sector = n then (if e.suspended then 0x02 else 0x01) else 0x00
    | none => 0x00 := by
  unfold underErase bankOf
  cases (s.bank (Four.nth (n / 64))).erase with
  | none => rfl
  | some e =>
    by_cases he : e.sector = n
    · simp only [he, if_true]; rfl
    · simp only [he, if_false]; rfl

theorem serving_sectorReport (r : Request) (n : Nat) : sectorReport n (serving .mgmt tag r s) = sectorReport n s := rfl

theorem mem_slotNumbers (n : Nat) : n ∈ slotNumbers ↔ 1 ≤ n ∧ n ≤ 8 := by
  simp only [slotNumbers, List.mem_cons, List.not_mem_nil, or_false]
  omega

/-- The last outcomes a JOBS reports are those the slots hold (R101). -/
theorem mem_heldOutcomes (n : Nat) (o : LastOutcome) : (n, o) ∈ heldOutcomes s ↔ 1 ≤ n ∧ n ≤ 8 ∧ s.lastOutcome n = some o := by
  simp only [heldOutcomes, List.mem_filterMap, Option.map_eq_some_iff, Prod.mk.injEq]
  constructor
  · rintro ⟨m, hm, o', ho, rfl, rfl⟩
    exact ⟨((mem_slotNumbers m).mp hm).1, ((mem_slotNumbers m).mp hm).2, ho⟩
  · rintro ⟨h1, h8, ho⟩
    exact ⟨n, (mem_slotNumbers n).mpr ⟨h1, h8⟩, o, ho, rfl, rfl⟩

/-! ## CLEAR_ACCESSED and SET_LEVEL -/

theorem setLevel_serving (r : Request) (c : ClientId) (level : Nat) :
    setLevel c level (serving .mgmt tag r s) = serving .mgmt tag r (s.setClient c { s.client c with level }) := rfl

end

/-! ## The statements -/

/-- Settles O11. -/
theorem identifyAnswersTheIdentity : Obligations.IdentifyAnswersTheIdentity := by
  intro p tag s ha
  rw [exec_identify_attends ha, takeIdentify, respond_attends ha, identity_eq, serving_lockInForce]

/-- Settles O13: the reports are those of the state before; FIND's list is a sorted permutation of the entries of the
name. -/
theorem entryFindSectorAndJobsReport : Obligations.EntryFindSectorAndJobsReport := by
  refine ⟨⟨fun tag i s ha => ?_, entryReport_none⟩, fun tag name s ha hw => ⟨?_, fun hname => ?_⟩,
    fun tag s ha => ⟨fun n => ?_, ?_, mem_heldOutcomes⟩⟩
  · rw [exec_attends rfl ha]
    show Host.Outcome.next (takeEntry i _) = _
    simp only [takeEntry, not_indexInRange, ite_not, respond_attends ha, serving_image]
  · rintro rfl
    rw [exec_attends rfl ha]
    exact congrArg Host.Outcome.next (respond_attends ha ..)
  · refine ⟨sortedByGeneration (namedEntries s name), ?_, pairwise_sortedByGeneration _, ?_, fun i im => ?_⟩
    · rw [exec_attends rfl ha]
      exact congrArg Host.Outcome.next ((if_neg hname).trans (respond_attends ha ..))
    · exact (sortedByGeneration_perm _).nodup_iff.mpr (nodup_namedEntries hw name)
    · exact (sortedByGeneration_perm _).mem_iff.trans (Resolution.mem_namedEntries hw)
  · rw [exec_attends rfl ha]
    show Host.Outcome.next (takeSector n _) = _
    rw [takeSector, serving_sectorReport, respond_attends ha, respond_attends ha, sectorReport, eraseCode_underErase]
    by_cases hn : n ≤ 255
    · rw [if_neg (Nat.not_lt.mpr hn), if_pos hn]; rfl
    · rw [if_pos (Nat.lt_of_not_le hn), if_neg hn]
  · rw [exec_attends rfl ha]
    exact congrArg Host.Outcome.next (respond_attends ha ..)

/-- Settles O14. -/
theorem clearAccessedAndSetLevel : Obligations.ClearAccessedAndSetLevel := by
  refine ⟨fun tag i s ha => ⟨fun hi => ?_, fun hi him => ?_, fun im hi him => ?_⟩,
    fun tag n level s ha => ⟨fun c hn hl => ?_, fun hr => ?_⟩⟩
  · rw [exec_attends rfl ha]
    exact congrArg Host.Outcome.next ((if_pos (not_indexInRange i ▸ hi)).trans (respond_attends ha ..))
  · rw [exec_attends rfl ha]
    show Host.Outcome.next (takeClearAccessed i _) = _
    simp only [takeClearAccessed, not_indexInRange, hi, not_true, if_false, serving_image, him, and_self, respond_attends ha]
  · rw [exec_attends rfl ha]
    show Host.Outcome.next (takeClearAccessed i _) = _
    simp only [takeClearAccessed, not_indexInRange, hi, not_true, if_false, serving_image, him, and_self]
    exact congrArg Host.Outcome.next
      (respond_of_serving (t := s.setImage i (some { im with accessed := false })) ha rfl rfl rfl _ _)
  · rw [exec_attends rfl ha, hn]
    show Host.Outcome.next (takeSetLevel _ level _) = _
    simp only [takeSetLevel, clientOf_number, hl, decide_true, serving_level, setLevel_serving]
    exact congrArg Host.Outcome.next
      (respond_of_serving (t := s.setClient c { s.client c with level }) ha rfl rfl rfl _ _)
  · rw [exec_attends rfl ha]
    show Host.Outcome.next (takeSetLevel n level _) = _
    unfold takeSetLevel
    split
    · rename_i c hc hl
      have hport : 1 ≤ n ∧ n ≤ 4 := Decidable.of_not_not fun h => by simp [(clientOf_eq_none n).mpr h] at hc
      exact absurd ⟨hport.1, hport.2, of_decide_eq_true hl⟩ hr
    · rw [respond_attends ha]

end Sys2Proof.Proofs.Reports

/-! # Apertures and reads at ports that attend (R33 to R39, R48 to R58): the statements O17, O18, O20 and O21 -/

namespace Sys2Proof.Proofs.Apertures

open Sys2Proof Sys2Proof.Machine Sys2Proof.Proofs.Rules Sys2Proof.Proofs.Serving

section
variable {s : State} {c : ClientId} {tag : Byte} {r : Request}

/-! ## BIND -/

/-- The payload length a binding copies (R34). -/
theorem payload_getD (im : Image) : (im.published.map Prod.fst).getD 0 = match im.published with
    | some (n, _) => n
    | none => 0 := by
  cases im.published <;> rfl

/-- A binding is made beside the service. -/
theorem bindAperture_serving (ap : Nat) (e : Nat × Image) (boot : Bool) :
    bindAperture c ap e boot (serving (.client c) tag r s) = serving (.client c) tag r (bindAperture c ap e boot s) := by
  rw [bindAperture, setAperture_serving, raiseBindings, updImage_serving, ← raiseBindings, ← bindAperture]

/-- The response of a take that binds: the binding stays (R34). -/
theorem respond_bindAperture (ha : s.Attends (.client c)) (ap : Nat) (e : Nat × Image) (boot : Bool) (st : Status)
    (results : List Byte) : respond (.client c) st results (bindAperture c ap e boot (serving (.client c) tag r s))
      = answered (.client c) tag r st results (bindAperture c ap e boot s) :=
  respond_of_serving ha (bindAperture_serving ..) (resetHeld_updImage ..)
    ((port_updImage ..).trans (port_setAperture ..)) st results

/-! ## UNBIND -/

theorem releaseRecord_serving (p : Aperture) :
    releaseRecord p (serving (.client c) tag r s) = serving (.client c) tag r (releaseRecord p s) := by
  unfold releaseRecord
  split
  · rfl
  · exact updImage_serving ..

theorem port_releaseRecord (p : Aperture) (q : Port) : (releaseRecord p s).port q = s.port q := by
  unfold releaseRecord
  split
  · rfl
  · exact port_updImage ..

theorem resetHeld_releaseRecord (p : Aperture) : (releaseRecord p s).resetHeld = s.resetHeld := by
  unfold releaseRecord
  split
  · rfl
  · exact resetHeld_updImage ..

/-- The response of a take that empties an aperture (R37). -/
theorem respond_unbinds (ha : s.Attends (.client c)) (ap : Nat) (p : Aperture) (st : Status) (results : List Byte) :
    respond (.client c) st results (releaseRecord p (setAperture c ap none (serving (.client c) tag r s)))
      = answered (.client c) tag r st results (releaseRecord p (setAperture c ap none s)) :=
  respond_of_serving (t := releaseRecord p (setAperture c ap none s)) ha (by rw [setAperture_serving, releaseRecord_serving])
    (resetHeld_releaseRecord p) ((port_releaseRecord ..).trans (port_setAperture ..)) st results

/-- An UNBIND of a record at a client port that attends (R37). -/
theorem exec_unbind_some (ha : s.Attends (.client c)) {ap : Nat} {p : Aperture} (hap : ap ≤ 7)
    (hp : s.aperture c ap = some p) : exec (.unbind c tag ap) s = .next (answered (.client c) tag (.unbind ap) .ok
      (be 2 p.entry ++ be 2 p.generation ++ [apertureCode (some p)]) (releaseRecord p (setAperture c ap none s))) := by
  rw [exec_attends rfl ha]
  show Host.Outcome.next (takeUnbind c ap _) = _
  simp only [takeUnbind, Nat.not_lt.mpr hap, if_false, serving_aperture, hp, respond_unbinds ha]

/-- The report of an EMPTY aperture (R39). -/
theorem apertureReport_none (s : State) (level : Nat) : apertureReport s level none = [0x00] ++ (0x00 :: blanks 2)
    ++ (0x00 :: blanks 4) ++ (0x00 :: blanks 2) ++ (0x00 :: blanks 1) ++ (0x00 :: blanks 4) ++ (0x00 :: blanks 1)
    ++ (0x00 :: blanks 2) ++ [0x00] ++ [0x00, 0x00] ++ be 1 level := by
  have hnewest : newestGeneration s none = 0 := rfl
  rw [apertureReport, hnewest]
  rfl

/-! ## FETCH -/

theorem range_check (ap access : Nat) :
    ((!(decide (ap ≤ 7) && (access == 1 || access == 2))) = true) = ¬ (ap ≤ 7 ∧ (access = 1 ∨ access = 2)) :=
  check_fails (by simp only [Bool.and_eq_true, Bool.or_eq_true, decide_eq_true_eq, beq_iff_eq])

/-- The take of a FETCH of a record (R48). -/
theorem takeFetch_of_record {ap access : Nat} {p : Aperture} (hin : ap ≤ 7 ∧ (access = 1 ∨ access = 2))
    (hp : s.aperture c ap = some p) (offset length : Nat) : takeFetch c ap offset length access s =
      (fetchRefusal p offset length access).elim (createRead (fetchAccess c p offset length) s)
        fun st => respond (.client c) st [] s := by
  simp only [takeFetch, range_check, not_not_intro hin, if_false, hp]
  cases fetchRefusal p offset length access <;> rfl

/-- The access types a kind refuses (R50). -/
theorem not_admits (k : Kind) {access : Nat} (h : access = 1 ∨ access = 2) :
    ((!k.admits access) = true) = ((k = .exec ∧ access = 2) ∨ (k = .data ∧ access = 1)) := by
  rcases h with rfl | rfl <;> cases k <;> simp [Kind.admits]

/-- A payload offset's byte lies at its place behind the header line (R51). -/
theorem lineAddress_payload (f p : Nat) :
    lineAddress (payloadSector f p) (payloadLine p) (payloadByte p) = f * 65536 + (256 + p) := by
  unfold lineAddress payloadSector payloadLine payloadByte
  omega

/-- The line of a payload offset lies in the extent and is never the header line (R51). -/
theorem payload_place {c p : Nat} (f : Nat) (hc : 1 ≤ c) (hp : p < capacity c) :
    f ≤ payloadSector f p ∧ payloadSector f p ≤ f + c - 1 ∧ payloadLine p ≤ 255 ∧ payloadByte p = p % 256
      ∧ ¬ (payloadSector f p = f ∧ payloadLine p = 0) := by
  unfold capacity at hp
  unfold payloadSector payloadLine payloadByte
  omega

/-! ## Read accesses -/

/-- An entry's reads in flight rise beside the service, and the read mark of the port is set (R23, R63). -/
theorem setReadMark_serving (p : Port) (t : State) : setReadMark p true (serving p tag r t)
    = (serving p tag r t).setPort p { t.port p with queue := [(tag, r)], inService := true, readMark := true } := by
  rw [setReadMark, serving_port]

/-- A counted read access is created at the take (R23, R52, R63). -/
theorem createRead_counted (a : ReadAccess) {p : Port} {i : Nat} (hp : a.port = p) (hi : a.entry = some i) :
    createRead a (serving p tag r s) = settle (join (bankOf a.sector) (.read a)
      ((serving p tag r (s.updImage i fun im => { im with reads := im.reads + 1 })).setPort p
        { s.port p with queue := [(tag, r)], inService := true, readMark := true })) := by
  simp only [createRead, hi, hp, raiseReads, updImage_serving, setReadMark_serving, port_updImage]

/-- A read access that no entry counts is created at the take (R52, R63). -/
theorem createRead_uncounted (a : ReadAccess) {p : Port} (hp : a.port = p) (hi : a.entry = none) :
    createRead a (serving p tag r s) = settle (join (bankOf a.sector) (.read a)
      ((serving p tag r s).setPort p { s.port p with queue := [(tag, r)], inService := true, readMark := true })) := by
  simp only [createRead, hi, hp, setReadMark_serving]

/-- The take of a READ of an entry (R56). -/
theorem takeRead_of_image {i : Nat} {im : Image} (hi : 1 ≤ i ∧ i ≤ 256) (him : s.image i = some im) (offset length : Nat) :
    takeRead i offset length s = (readRefusal im offset length).elim (createRead (readAccess i im offset length) s)
      fun st => respond .mgmt st [] s := by
  simp only [takeRead, not_indexInRange, not_not_intro hi, if_false, him]
  cases readRefusal im offset length <;> rfl

/-- The sector READ_RAW names is under erase (R58). -/
theorem underErase_isSome (s : State) (n : Nat) : ((underErase s n).isSome = true)
    = ∃ e, (s.bank (Four.nth (n / 64))).erase = some e ∧ e.sector = n := by
  unfold underErase bankOf
  cases (s.bank (Four.nth (n / 64))).erase with
  | none => simp
  | some e => by_cases he : e.sector = n <;> simp [he]

end

/-! ## The statements -/

/-- Settles O17: the binding is made beside the service, and the response leaves after it. -/
theorem bindChecksAndBinds : Obligations.BindChecksAndBinds := by
  intro c tag ap name g s ha
  rw [exec_attends rfl ha]
  show Host.Outcome.next (takeBind c ap name g _) = _
  simp only [takeBind, respond_attends ha, serving_aperture, Resolution.resolve_congr (Resolution.serving_dir ..), serving_level,
    respond_bindAperture ha, Option.isSome_iff_ne_none]
  cases resolve s name g with
  | none => rfl
  | some e =>
    simp only [bindResults, bindAperture, raiseBindings, setAperture, boundRecord, payload_getD] <;> rfl

/-- Settles O18. -/
theorem unbindAndDescribe : Obligations.UnbindAndDescribe := by
  refine ⟨fun c tag ap s ha => ⟨fun hap => ?_, fun hap hp => ?_, fun p hap hp hr => ?_, fun p hap hp hr => ?_⟩,
    fun c tag ap s ha => ⟨fun hap => ?_, fun hap hp => ?_, fun p hap hp => ?_⟩⟩
  · rw [exec_attends rfl ha]
    exact congrArg Host.Outcome.next ((if_pos hap).trans (respond_attends ha ..))
  · rw [exec_attends rfl ha]
    show Host.Outcome.next (takeUnbind c ap _) = _
    simp only [takeUnbind, Nat.not_lt.mpr hap, if_false, serving_aperture, hp, respond_attends ha]
  · rw [exec_unbind_some ha hap hp, apertureCode, releaseRecord, hr]
    rfl
  · rw [exec_unbind_some ha hap hp, apertureCode, releaseRecord, hr]
    rfl
  · rw [exec_attends rfl ha]
    exact congrArg Host.Outcome.next ((if_pos hap).trans (respond_attends ha ..))
  · rw [Resolution.exec_describe_ok ha tag hap, hp, apertureReport_none]
  · rw [Resolution.exec_describe_ok ha tag hap, hp]
    rfl

/-- Settles O20: the checks in the order of the rule, then the read access of the payload offset's line. -/
theorem fetchChecksAndReads : Obligations.FetchChecksAndReads := by
  refine ⟨fun c tag ap offset length access s ha => ?_,
    fun f c p hc hp => ⟨lineAddress_payload f p, payload_place f hc hp⟩⟩
  rw [exec_attends rfl ha]
  show Host.Outcome.next (takeFetch c ap offset length access _) = _
  by_cases hin : ap ≤ 7 ∧ (access = 1 ∨ access = 2)
  · rw [if_neg (not_not_intro hin)]
    cases hp : s.aperture c ap with
    | none => simp only [takeFetch, range_check, not_not_intro hin, if_false, serving_aperture, hp, respond_attends ha]
    | some p =>
      have halign : ((!(decide (offset % 4 = 0) && decide (length % 4 = 0) && decide (4 ≤ length) && decide (length ≤ 64)))
          = true) = ¬ (offset % 4 = 0 ∧ length % 4 = 0 ∧ 4 ≤ length ∧ length ≤ 64) :=
        check_fails (by simp only [Bool.and_eq_true, decide_eq_true_eq, and_assoc])
      rw [takeFetch_of_record hin ((serving_aperture ..).trans hp)]
      simp only [fetchRefusal, halign, not_admits p.kind hin.2, elim_check, respond_attends ha,
        createRead_counted (p := .client c) (fetchAccess c p offset length) rfl rfl]
      rfl
  · rw [if_pos hin]
    simp only [takeFetch, range_check, hin, not_false_iff, if_true, respond_attends ha]

/-- Settles O21: the checks in the order of the rules, then the read access each creates. -/
theorem readAndReadRawCheckAndRead : Obligations.ReadAndReadRawCheckAndRead := by
  refine ⟨fun tag i offset length s ha => ?_, fun tag sector line first length s ha => ?_⟩
  · rw [exec_attends rfl ha]
    show Host.Outcome.next (takeRead i offset length _) = _
    by_cases hi : 1 ≤ i ∧ i ≤ 256
    · rw [if_neg (not_not_intro hi)]
      cases him : s.image i with
      | none => simp only [takeRead, not_indexInRange, not_not_intro hi, if_false, serving_image, him, respond_attends ha]
      | some im =>
        rw [takeRead_of_image hi ((serving_image ..).trans him)]
        simp only [readRefusal, not_decide_and, elim_check, respond_attends ha,
          createRead_counted (p := .mgmt) (readAccess i im offset length) rfl rfl, Kept.updImage_some him]
        rfl
    · rw [if_pos hi]
      simp only [takeRead, not_indexInRange, hi, not_false_iff, if_true, respond_attends ha]
  · rw [exec_attends rfl ha]
    show Host.Outcome.next (takeReadRaw sector line first length _) = _
    have hrange : ((!(decide (sector ≤ 255) && decide (line ≤ 255) && decide (first ≤ 255))) = true)
        = ¬ (sector ≤ 255 ∧ line ≤ 255 ∧ first ≤ 255) :=
      check_fails (by simp only [Bool.and_eq_true, decide_eq_true_eq, and_assoc])
    have halign : ((!(decide (1 ≤ length) && decide (length ≤ 256) && decide (first + length ≤ 256))) = true)
        = ¬ (1 ≤ length ∧ length ≤ 256 ∧ first + length ≤ 256) :=
      check_fails (by simp only [Bool.and_eq_true, decide_eq_true_eq, and_assoc])
    simp only [takeReadRaw, hrange, halign, respond_attends ha, serving_underErase, underErase_isSome,
      createRead_uncounted (p := .mgmt) (rawAccess sector line first length) rfl rfl]
    rfl

end Sys2Proof.Proofs.Apertures

/-! # Requests on images and sectors, and the settings requests (chapters 6 to 8): the statements O23 to O26, O28 to O30 and
O32 -/

namespace Sys2Proof.Proofs.Images

open Sys2Proof Sys2Proof.Machine Sys2Proof.Proofs.Rules Sys2Proof.Proofs.Serving

section
variable {s : State} {tag : Byte} {r : Request}

/-! ## OPEN -/

/-- The kind a code stands for (R174). -/
theorem kindOfCode_eq (n : Nat) : kindOfCode n =
    if 1 ≤ n ∧ n ≤ 3 then some (if n = 1 then .exec else if n = 2 then .code else .data) else none := by
  match n with
  | 0 => rfl
  | 1 => rfl
  | 2 => rfl
  | 3 => rfl
  | n + 4 => rw [if_neg (by omega)]; rfl

theorem openInRange_iff (name : Word32) (first count level : Nat) : openInRange name first count level = true ↔
    name ≠ 0 ∧ first ≤ 255 ∧ 1 ≤ count ∧ count ≤ 256 ∧ first + count - 1 ≤ 255 ∧ level ≤ 3 := by
  simp only [openInRange, Bool.and_eq_true, decide_eq_true_eq, bne_iff_ne, ne_eq, and_assoc]

/-- The take of an OPEN out of range (R106). -/
theorem takeOpen_out {name : Word32} {first count kind level : Nat}
    (h : ¬ (name ≠ 0 ∧ first ≤ 255 ∧ 1 ≤ count ∧ count ≤ 256 ∧ first + count - 1 ≤ 255 ∧ 1 ≤ kind ∧ kind ≤ 3 ∧ level ≤ 3)) :
    takeOpen name first count kind level s = respond .mgmt .range [] s := by
  unfold takeOpen
  split
  · rename_i k hk hr
    obtain ⟨h1, h2, h3, h4, h5, h6⟩ := (openInRange_iff ..).mp hr
    rw [kindOfCode_eq] at hk
    split at hk
    · rename_i hkind; exact absurd ⟨h1, h2, h3, h4, h5, hkind.1, hkind.2, h6⟩ h
    · cases hk
  · rfl

/-- The take of an OPEN in range: the index, the generation and the extent are found in this order (R106). -/
theorem takeOpen_in {name : Word32} {first count kind level : Nat}
    (h : name ≠ 0 ∧ first ≤ 255 ∧ 1 ≤ count ∧ count ≤ 256 ∧ first + count - 1 ≤ 255 ∧ 1 ≤ kind ∧ kind ≤ 3 ∧ level ≤ 3) :
    takeOpen name first count kind level s = (lowestFree s).elim (respond .mgmt .directoryFull [] s) fun i =>
      if 65535 ≤ greatestGeneration s name then respond .mgmt .generationExhausted [] s
      else (extentRefusal s first count).elim
        (startSequence (headerSequence i name (greatestGeneration s name + 1) first count
          (if kind = 1 then .exec else if kind = 2 then .code else .data) level) s)
        fun e => respond .mgmt e.2 (be 1 e.1) s := by
  obtain ⟨h1, h2, h3, h4, h5, h6, h7, h8⟩ := h
  rw [takeOpen, kindOfCode_eq, if_pos ⟨h6, h7⟩, (openInRange_iff ..).mpr ⟨h1, h2, h3, h4, h5, h8⟩]
  cases lowestFree s with
  | none => rfl
  | some i => cases extentRefusal s first count <;> rfl

/-- The lowest FREE index (R21). -/
theorem lowestFree_eq_some (s : State) (i : Nat) :
    lowestFree s = some i ↔ 1 ≤ i ∧ i ≤ 256 ∧ s.image i = none ∧ ∀ j, 1 ≤ j → j < i → s.image j ≠ none := by
  simp only [lowestFree, entryIndices, List.find?_map, Option.map_eq_some_iff, List.find?_range_eq_some, Function.comp,
    Option.isNone_iff_eq_none, List.mem_range, Config.entries, Bool.not_eq_true', Option.isNone_eq_false_iff,
    Option.isSome_iff_ne_none]
  constructor
  · rintro ⟨k, ⟨himage, hk, hmin⟩, rfl⟩
    refine ⟨by omega, by omega, himage, fun j h1 hj => ?_⟩
    obtain ⟨m, rfl⟩ := Nat.exists_eq_add_of_le' h1
    exact hmin m (by omega)
  · rintro ⟨h1, h256, himage, hmin⟩
    obtain ⟨m, rfl⟩ := Nat.exists_eq_add_of_le' h1
    exact ⟨m, ⟨himage, by omega, fun j hj => hmin (j + 1) (by omega) (by omega)⟩, rfl⟩

theorem lowestFree_eq_none (s : State) : lowestFree s = none ↔ ∀ j, 1 ≤ j → j ≤ 256 → s.image j ≠ none := by
  simp only [lowestFree, entryIndices, List.find?_eq_none, List.mem_map, List.mem_range, Config.entries,
    Option.isNone_iff_eq_none]
  constructor
  · intro h j h1 h256
    exact h j ⟨j - 1, by omega, by omega⟩
  · rintro h j ⟨k, hk, rfl⟩
    exact h (k + 1) (by omega) (by omega)

/-- A running maximum is at least what it begins with and every member, and is one of them. -/
theorem foldl_max_generation (l : List (Nat × Image)) (g : Nat) :
    g ≤ l.foldl (fun g e => max g e.2.generation) g
    ∧ (∀ e ∈ l, e.2.generation ≤ l.foldl (fun g e => max g e.2.generation) g)
    ∧ (l.foldl (fun g e => max g e.2.generation) g = g
      ∨ ∃ e ∈ l, e.2.generation = l.foldl (fun g e => max g e.2.generation) g) := by
  induction l generalizing g with
  | nil => exact ⟨Nat.le_refl g, by simp, Or.inl rfl⟩
  | cons e l ih =>
    obtain ⟨hbegin, hmem, hone⟩ := ih (max g e.2.generation)
    refine ⟨Nat.le_trans (Nat.le_max_left ..) hbegin, fun f hf => ?_, ?_⟩
    · rcases List.mem_cons.mp hf with rfl | hf
      · exact Nat.le_trans (Nat.le_max_right ..) hbegin
      · exact hmem f hf
    · rcases hone with h | ⟨f, hf, h⟩
      · rw [List.foldl_cons, h]
        rcases Nat.le_total g e.2.generation with hle | hle
        · exact Or.inr ⟨e, List.mem_cons_self, (Nat.max_eq_right hle).symm⟩
        · exact Or.inl (Nat.max_eq_left hle)
      · exact Or.inr ⟨f, List.mem_cons_of_mem _ hf, h⟩

/-- No entry of a name holds a generation above the greatest (R20). -/
theorem generation_le_greatest (hw : Table.wf none s.dir = true) {name : Word32} {i : Nat} {im : Image}
    (hi : s.image i = some im) (hn : im.name = some name) : im.generation ≤ greatestGeneration s name :=
  (foldl_max_generation _ 0).2.1 (i, im) ((Resolution.mem_namedEntries hw).mpr ⟨hi, hn⟩)

/-- The greatest generation is held by an entry of the name, or 0 (R20). -/
theorem greatestGeneration_attained (hw : Table.wf none s.dir = true) (name : Word32) :
    (∃ i im, s.image i = some im ∧ im.name = some name ∧ im.generation = greatestGeneration s name)
      ∨ greatestGeneration s name = 0 := by
  rcases (foldl_max_generation (namedEntries s name) 0).2.2 with h | ⟨e, he, h⟩
  · exact Or.inr h
  · obtain ⟨hi, hn⟩ := (Resolution.mem_namedEntries hw).mp he
    exact Or.inl ⟨e.1, e.2, hi, hn, h⟩

/-- The first answer along a run of numbers. -/
theorem findSome?_range' {α : Type} (f : Nat → Option α) (first count : Nat) (v : α) :
    (List.range' first count).findSome? f = some v
      ↔ ∃ m, first ≤ m ∧ m < first + count ∧ f m = some v ∧ ∀ k, first ≤ k → k < m → f k = none := by
  induction count generalizing first with
  | zero =>
    simp only [List.range'_zero, List.findSome?_nil, reduceCtorEq, false_iff, not_exists]
    omega
  | succ n ih =>
    rw [List.range'_succ, List.findSome?_cons]
    cases hf : f first with
    | some w =>
      constructor
      · rintro ⟨⟩
        exact ⟨first, Nat.le_refl _, by omega, hf, fun k h1 h2 => absurd h2 (Nat.not_lt.mpr h1)⟩
      · rintro ⟨m, h1, -, hm, hmin⟩
        rcases Nat.eq_or_lt_of_le h1 with rfl | hlt
        · exact hf.symm.trans hm
        · rw [hmin first (Nat.le_refl _) hlt] at hf
          cases hf
    | none =>
      refine (ih (first + 1)).trans ⟨fun ⟨m, h1, h2, hm, hmin⟩ => ⟨m, by omega, by omega, hm, fun k hk1 hk2 => ?_⟩,
        fun ⟨m, h1, h2, hm, hmin⟩ => ?_⟩
      · rcases Nat.eq_or_lt_of_le hk1 with rfl | hlt
        · exact hf
        · exact hmin k hlt hk2
      · rcases Nat.eq_or_lt_of_le h1 with rfl | hlt
        · rw [hf] at hm
          cases hm
        · exact ⟨m, hlt, by omega, hm, fun k hk1 hk2 => hmin k (by omega) hk2⟩

theorem extentSectors_eq (first count : Nat) : extentSectors first count = List.range' first count :=
  List.range'_eq_map_range.symm

/-- The extent check names the lowest sector that fails (R107). -/
theorem extentRefusal_eq_some (s : State) (first count m : Nat) (st : Status) :
    extentRefusal s first count = some (m, st) ↔ first ≤ m ∧ m < first + count ∧ sectorRefusal s m = some st
      ∧ ∀ k, first ≤ k → k < m → sectorRefusal s k = none := by
  rw [extentRefusal, extentSectors_eq, findSome?_range']
  constructor
  · rintro ⟨n, h1, h2, hn, hmin⟩
    obtain ⟨st', hst, heq⟩ := Option.map_eq_some_iff.mp hn
    cases heq
    exact ⟨h1, h2, hst, fun k hk1 hk2 => Option.map_eq_none_iff.mp (hmin k hk1 hk2)⟩
  · rintro ⟨h1, h2, hm, hmin⟩
    exact ⟨m, h1, h2, by rw [hm]; rfl, fun k hk1 hk2 => by rw [hmin k hk1 hk2]; rfl⟩

theorem sectorRefusal_eq (s : State) (m : Nat) : sectorRefusal s m =
    if (s.sector m).owner ≠ none then some .extentOwned
    else if (s.sector m).target ≠ none then some .busy
    else if (s.sector m).failed then some .sectorFailed
    else if s.isProtected m then some .protection
    else none := by
  simp only [sectorRefusal, Option.isSome_iff_ne_none]

/-! ## WRITE and PUBLISH -/

/-- The take of a WRITE of an entry (R110). -/
theorem takeWrite_of_image {i : Nat} {im : Image} (hi : 1 ≤ i ∧ i ≤ 256) (him : s.image i = some im) (offset : Nat)
    (data : List Byte) : takeWrite i offset data s = (writeRefusal s im offset data.length).elim
      (startSequence (writeSequence im offset data) s) fun st => respond .mgmt st [] s := by
  simp only [takeWrite, not_indexInRange, not_not_intro hi, if_false, him]
  cases writeRefusal s im offset data.length <;> rfl

/-- The take of a PUBLISH of an entry (R113). -/
theorem takePublish_of_image {i : Nat} {im : Image} (hi : 1 ≤ i ∧ i ≤ 256) (him : s.image i = some im) (length : Nat)
    (crc : Word32) : takePublish i length crc s = (publishRefusal s im length).elim
      (startSequence (publishSequence i im length crc) s) fun st => respond .mgmt st [] s := by
  simp only [takePublish, not_indexInRange, not_not_intro hi, if_false, him]
  cases publishRefusal s im length <;> rfl

/-! ## DISCARD -/

/-- The take of a DISCARD of an entry in a state that admits it (R128). -/
theorem takeDiscard_of_image {i : Nat} {im : Image} (hi : 1 ≤ i ∧ i ≤ 256) (him : s.image i = some im)
    (hd : discardable im.state = true) : takeDiscard i s = ((extentSectors im.first im.count).find? s.isProtected).elim
      (if jobsFull s then respond .mgmt .jobsFull [] s else startSequence (markSequence (.discardMark i) im.first 66) s)
      fun n => respond .mgmt .protection (be 1 n) s := by
  simp only [takeDiscard, not_indexInRange, not_not_intro hi, if_false, him, hd, Bool.not_true, Bool.false_eq_true]
  cases (extentSectors im.first im.count).find? s.isProtected <;> rfl

/-! ## ABANDON -/

/-- What an ABANDON does to a bank, in one match (R103). -/
theorem dropVerify_eq (n : Nat) (k : Bank) : dropVerify n k = { k with
    waiting := k.waiting.filter fun a => match a with
      | .media (.verifyRead m _ _) _ => m != n
      | _ => true
    activity := match k.activity with
      | .sensing (.verify (some m) sector line) => .sensing (.verify (if m = n then none else some m) sector line)
      | x => x } := by
  unfold dropVerify
  congr 1
  cases k.activity with
  | sensing x =>
    cases x with
    | verify job sector line =>
      cases job with
      | none => rfl
      | some m => by_cases hm : m = n <;> simp [hm]
    | read => rfl
    | scan => rfl
  | _ => rfl

/-- The state that an ABANDON of the VERIFY of entry `i` in slot `n` leaves (R10, R98, R103). -/
def abandoned (n i checked : Nat) (im : Image) (s : State) : State :=
  { s with
    jobs := s.jobs.filter (·.number != n)
    lastOutcomes := Table.put none s.lastOutcomes n
      (some { kind := .verify, target := i, outcome := .abandoned, progress := some checked })
    sectors := Table.map {} (fun r => if r.target = some n then { r with target := none } else r) s.sectors
    dir := Table.put none s.dir i (some { im with state := .opened })
    banks := s.banks.map fun _ k => dropVerify n k }

/-- An ABANDON that passes its checks, at a port that attends (R10, R98, R103). -/
theorem abandonVerify_attends (ha : s.Attends .mgmt) {n i checked : Nat} {j : Job} {im : Image} (hj : s.job n = some j)
    (hk : j.work.kind = .verify) (ht : j.work.target = i) (him : s.image i = some im) :
    abandonVerify n i checked (serving .mgmt tag r s)
      = answered .mgmt tag r .ok (be 2 i ++ be 4 checked) (abandoned n i checked im s) := by
  refine respond_of_serving (t := abandoned n i checked im s) ha ?_ rfl rfl _ _
  have himage : ({ serving .mgmt tag r s with banks := (serving .mgmt tag r s).banks.map fun _ k => dropVerify n k } : State).image i
      = some im := him
  rw [Kept.updImage_some himage, endJob]
  split
  · rename_i j' hj'
    cases (hj'.symm.trans hj : some j' = some j)
    rw [hk, ht]
    rfl
  · rename_i hnone
    cases (hnone.symm.trans hj : none = some j)

/-! ## ERASE -/

/-- The take of an ERASE: its checks in order, then the lowest free slot (R134). -/
theorem takeErase_eq (sector : Nat) (s : State) : takeErase sector s =
    if 255 < sector then respond .mgmt .range [] s
    else if (s.sector sector).owner.isSome then respond .mgmt .extentOwned [] s
    else if (s.sector sector).target.isSome then respond .mgmt .busy [] s
    else if s.isProtected sector then respond .mgmt .protection [] s
    else (freeSlot s).elim (respond .mgmt .jobsFull [] s)
      fun n => settle (respond .mgmt .accepted (be 1 n) (admitErase n sector s)) := by
  cases hf : freeSlot s with
  | none =>
    simp only [takeErase, eraseRefusal, jobsFull, hf]
    split_ifs <;> rfl
  | some n =>
    simp only [takeErase, eraseRefusal, jobsFull, hf, Option.isNone_some, Bool.false_eq_true, if_false]
    split_ifs <;> rfl

/-- The state with an ERASE admitted into slot `n`, but for its access (R93, R134). -/
def eraseAdmitted (n sector : Nat) (s : State) : State :=
  { s with
    jobs := s.jobs ++ [{ number := n, work := .erase sector, sector, line := 0, active := false }]
    lastOutcomes := Table.put none s.lastOutcomes n none
    sectors := Table.put {} s.sectors sector { s.sector sector with target := some n } }

/-- The response of an ERASE that is admitted leaves beside the job's first access (R134). -/
theorem respond_admitErase (ha : s.Attends .mgmt) (n sector : Nat) (st : Status) (results : List Byte) :
    respond .mgmt st results (admitErase n sector (serving .mgmt tag r s))
      = joinMedia sector (.eraseStart n sector) (answered .mgmt tag r st results (eraseAdmitted n sector s)) := by
  have hbeside : respond .mgmt st results (admitErase n sector (serving .mgmt tag r s))
      = joinMedia sector (.eraseStart n sector) (respond .mgmt st results (serving .mgmt tag r (eraseAdmitted n sector s))) := rfl
  rw [hbeside, respond_of_serving (t := eraseAdmitted n sector s) ha rfl rfl rfl]

/-! ## REVOKE -/

theorem revokeRecord_eq (i : Nat) : revokeRecord i = fun o => match o with
    | some r => some (if r.revoked = false ∧ r.entry = i then { r with revoked := true } else r)
    | none => none := by
  funext o
  cases o with
  | none => rfl
  | some r =>
    by_cases h : r.revoked = false ∧ r.entry = i
    · simp [revokeRecord, boundTo_some, h]
    · have : boundTo i (some r) = false := by
        rw [boundTo_some, Bool.and_eq_false_iff]
        by_cases hr : r.revoked = false
        · exact Or.inr (by simpa using fun he => h ⟨hr, he⟩)
        · exact Or.inl (by simpa using hr)
      simp only [revokeRecord, this, h, if_false, Bool.false_eq_true]

/-- A RETIRING entry that no client port binds any more (R12, R41). -/
theorem retireIfIdle_unbound {im : Image} (h : im.state = .retiring) : retireIfIdle { im with bindings := 0 }
    = { im with bindings := 0, state := if im.reads = 0 then .retired else .retiring } := by
  unfold retireIfIdle
  by_cases hr : im.reads = 0
  · rw [if_pos ⟨h, rfl, hr⟩, if_pos hr]
  · rw [if_neg fun hc => hr hc.2.2, if_neg hr, ← h]

end

/-! ## The statements -/

/-- Settles O23: the checks in order; the searches for index, generation and extent have a lemma each. -/
theorem openChecksAndProgramsItsHeader : Obligations.OpenChecksAndProgramsItsHeader := by
  refine ⟨fun tag name first count kind level s ha => ?_, fun s hw => ⟨lowestFree_eq_some s, lowestFree_eq_none s,
    fun _ _ _ hi hn => generation_le_greatest hw hi hn, greatestGeneration_attained hw, extentRefusal_eq_some s,
    sectorRefusal_eq s⟩⟩
  rw [exec_attends rfl ha]
  show Host.Outcome.next (takeOpen name first count kind level _) = _
  split
  · rename_i hout
    rw [takeOpen_out hout, respond_attends ha]
  · rename_i hin
    rw [takeOpen_in (Decidable.of_not_not hin)]
    simp only [serving_lowestFree, serving_greatestGeneration, serving_extentRefusal, respond_attends ha]
    cases lowestFree s with
    | none => rfl
    | some i => cases extentRefusal s first count <;> rfl

/-- Settles O24. -/
theorem writeChecksAndPrograms : Obligations.WriteChecksAndPrograms := by
  intro tag i offset data s ha
  rw [exec_attends rfl ha]
  show Host.Outcome.next (takeWrite i offset data _) = _
  by_cases hi : 1 ≤ i ∧ i ≤ 256
  · rw [if_neg (not_not_intro hi)]
    cases him : s.image i with
    | none => simp only [takeWrite, not_indexInRange, not_not_intro hi, if_false, serving_image, him, respond_attends ha]
    | some im =>
      rw [takeWrite_of_image hi ((serving_image ..).trans him)]
      simp only [writeRefusal, not_decide_and, elim_check, respond_attends ha] <;> rfl
  · rw [if_pos hi]
    simp only [takeWrite, not_indexInRange, hi, not_false_iff, if_true, respond_attends ha]

/-- Settles O25. -/
theorem publishChecksAndPrograms : Obligations.PublishChecksAndPrograms := by
  intro tag i length crc s ha
  rw [exec_attends rfl ha]
  show Host.Outcome.next (takePublish i length crc _) = _
  by_cases hi : 1 ≤ i ∧ i ≤ 256
  · rw [if_neg (not_not_intro hi)]
    cases him : s.image i with
    | none => simp only [takePublish, not_indexInRange, not_not_intro hi, if_false, serving_image, him, respond_attends ha]
    | some im =>
      rw [takePublish_of_image hi ((serving_image ..).trans him)]
      simp only [publishRefusal, not_decide_and, jobsFull_eq, elim_check, respond_attends ha] <;> rfl
  · rw [if_pos hi]
    simp only [takePublish, not_indexInRange, hi, not_false_iff, if_true, respond_attends ha]

/-- Settles O26. -/
theorem retireAndDiscardCheckAndProgramTheirMark : Obligations.RetireAndDiscardCheckAndProgramTheirMark := by
  refine fun tag i s ha => ⟨?_, ?_⟩
  · rw [exec_attends rfl ha]
    show Host.Outcome.next (takeRetire i _) = _
    simp only [takeRetire, not_indexInRange, serving_image, serving_isProtected, respond_attends ha] <;> rfl
  · rw [exec_attends rfl ha]
    show Host.Outcome.next (takeDiscard i _) = _
    by_cases hi : 1 ≤ i ∧ i ≤ 256
    · rw [if_neg (not_not_intro hi)]
      cases him : s.image i with
      | none => simp only [takeDiscard, not_indexInRange, not_not_intro hi, if_false, serving_image, him, respond_attends ha]
      | some im =>
        cases hs : im.state
        case opened | retired | bad =>
          rw [takeDiscard_of_image hi ((serving_image ..).trans him) (by rw [hs]; rfl)]
          have hprotected : (serving .mgmt tag (.discard i) s).isProtected = s.isProtected := rfl
          simp only [hprotected, jobsFull_eq, respond_attends ha]
          cases (extentSectors im.first im.count).find? s.isProtected <;> simp only [hs] <;> rfl
        case verifying | ready | retiring | discarding =>
          simp only [takeDiscard, not_indexInRange, not_not_intro hi, if_false, serving_image, him, hs, respond_attends ha]
          rfl
    · rw [if_pos hi]
      simp only [takeDiscard, not_indexInRange, hi, not_false_iff, if_true, respond_attends ha]

/-- Settles O28. -/
theorem abandonEndsAVerify : Obligations.AbandonEndsAVerify := by
  intro tag n i checked crc j im s ha hn hj hw him
  rw [exec_attends rfl ha]
  show Host.Outcome.next (takeAbandon n _) = _
  have htake : takeAbandon n (serving .mgmt tag (.abandon n) s) = abandonVerify n i checked (serving .mgmt tag (.abandon n) s) := by
    simp only [takeAbandon, Config.jobSlots, not_decide_and, not_not_intro hn, if_false, Abandon.serving_job, hj, hw]
  rw [htake, abandonVerify_attends ha hj (by rw [hw]; rfl) (by rw [hw]; rfl) him]
  simp only [abandoned, dropVerify_eq] <;> rfl

/-- Settles O29. -/
theorem revokeTakesAnEntryAway : Obligations.RevokeTakesAnEntryAway := by
  refine fun tag i s ha => ⟨fun hi => ?_, fun hi hstate => ?_, fun im hi him hstate => ⟨s.clients.map fun _ u => revokeAt i u, ?_, fun c => ?_⟩⟩
  · rw [exec_attends rfl ha]
    exact congrArg Host.Outcome.next ((if_pos (not_indexInRange i ▸ hi)).trans (respond_attends ha ..))
  · rw [exec_attends rfl ha]
    show Host.Outcome.next (takeRevoke i _) = _
    rcases hstate with him | ⟨im, him, hne⟩
    · simp only [takeRevoke, not_indexInRange, not_not_intro hi, if_false, serving_image, him, respond_attends ha]
    · simp only [takeRevoke, not_indexInRange, not_not_intro hi, if_false, serving_image, him, ne_eq, hne, not_false_iff,
        if_true, respond_attends ha]
  · rw [exec_attends rfl ha]
    show Host.Outcome.next (takeRevoke i _) = _
    simp only [takeRevoke, not_indexInRange, not_not_intro hi, not_not_intro hstate, if_false, serving_image, him,
      retireIfIdle_unbound hstate]
    exact congrArg Host.Outcome.next (respond_of_serving ha (t := { s with clients := s.clients.map fun _ u => revokeAt i u }.setImage i
      (some { im with bindings := 0, state := if im.reads = 0 then .retired else .retiring })) rfl rfl rfl _ _)
  · have hunit : (s.clients.map fun _ u => revokeAt i u).get c = revokeAt i (s.client c) := Quad.get_map ..
    refine ⟨fun h => hunit.trans (if_pos h), fun h => hunit.trans ((if_neg h).trans ?_)⟩
    rw [revokeRecord_eq] <;> rfl

/-- Settles O30. -/
theorem eraseChecksAndAdmitsItsJob : Obligations.EraseChecksAndAdmitsItsJob := by
  intro tag sector s ha
  have hslots : [1, 2, 3, 4, 5, 6, 7, 8].find? (fun n => (s.job n).isNone) = freeSlot s := rfl
  rw [exec_attends rfl ha]
  show Host.Outcome.next (takeErase sector _) = _
  simp only [takeErase_eq, respond_attends ha, serving_sector, serving_isProtected, serving_freeSlot,
    Option.isSome_iff_ne_none, hslots, respond_admitErase ha]
  cases freeSlot s <;> rfl

/-- Settles O32. -/
theorem settingsRequestsCheckAndStart : Obligations.SettingsRequestsCheckAndStart := by
  refine fun tag s ha => ⟨fun g => ?_, ?_, fun n primary fallback level => ⟨fun hr => ?_, fun c hn hp hl => ?_⟩, ?_, ?_⟩
  · rw [exec_attends rfl ha]
    show Host.Outcome.next (takeProtect g _) = _
    simp only [takeProtect, respond_attends ha]
    rfl
  · rw [exec_attends rfl ha]
    show Host.Outcome.next (if !s.wpHigh then _ else _) = _
    rw [respond_attends ha]
    cases s.wpHigh <;> rfl
  · rw [exec_attends rfl ha]
    show Host.Outcome.next (takeBootSet n primary fallback level _) = _
    unfold takeBootSet
    split
    · rename_i c hc hok
      obtain ⟨hp, hl⟩ := Bool.and_eq_true_iff.mp hok
      have hport : 1 ≤ n ∧ n ≤ 4 := Decidable.of_not_not fun h => by simp [(clientOf_eq_none n).mpr h] at hc
      exact absurd ⟨hport.1, hport.2, bne_iff_ne.mp hp, of_decide_eq_true hl⟩ hr
    · rw [respond_attends ha]
  · have hok : (primary != 0 && decide (level ≤ 3)) = true :=
      Bool.and_eq_true_iff.mpr ⟨bne_iff_ne.mpr hp, decide_eq_true hl⟩
    rw [exec_attends rfl ha, hn]
    show Host.Outcome.next (takeBootSet _ primary fallback level _) = _
    simp only [takeBootSet, clientOf_number, hok, serving_lockInForce, respond_attends ha]
    rfl
  · rw [exec_attends rfl ha]
    show Host.Outcome.next (takeBootClear _) = _
    rw [takeBootClear, respond_attends ha]
    rfl
  · rw [exec_attends rfl ha]
    rfl

end Sys2Proof.Proofs.Images

/-! # What the end of a sequence, an erase or a job does (R79, R98, R100, R120, R130 to R135), and events that cannot come
(log 2): the statements O47, O48, O50, O51 and O54 -/

namespace Sys2Proof.Proofs.Ends

open Sys2Proof Sys2Proof.Machine Sys2Proof.Proofs.Rules

section
variable {s : State} {n i : Nat} {j : Job} {im : Image}

/-! ## Program sequences -/

/-- The image a RETIRE leaves, by its state (R11). -/
theorem retiredImage_eq (im : Image) : retiredImage im =
    { im with state := if im.bindings = 0 ∧ im.reads = 0 then .retired else .retiring } := by
  unfold retiredImage
  split <;> rfl

theorem publishEnded_done {length : Nat} {crc : Word32} (hn : freeSlot s = some n) (hi : s.image i = some im) :
    publishEnded i length crc .done s
      = respond .mgmt .accepted (be 1 n) (admitVerify n i { im with published := some (length, crc) } s) := by
  simp only [publishEnded, hn, hi]

theorem retireEnded_some (hi : s.image i = some im) (out : ProgramOutcome) : retireEnded i out s =
    respond .mgmt (if out = .done then .ok else .markFailed)
      (stateCode (some (retiredImage im)) :: (be 1 (retiredImage im).bindings ++ be 1 (retiredImage im).reads))
      (s.setImage i (some (retiredImage im))) := by
  simp only [retireEnded, hi]

theorem discardEnded_some (hn : freeSlot s = some n) (hi : s.image i = some im) (out : ProgramOutcome) :
    discardEnded i out s = respond .mgmt (if out = .done then .accepted else .markFailed) (be 1 n) (admitDiscard n i im s) := by
  simp only [discardEnded, hn, hi]

theorem publishedMarkDone_of {marking : Bool} {checked : Nat} {crc : Word32} (hj : s.job n = some j)
    (hw : j.work = .verify i marking checked crc) (hi : s.image i = some im) (done : Bool) : publishedMarkDone n done s =
      if done then raise .mgmt .jobDone (announce im (endJob n .done (some checked) (s.setImage i (some { im with state := .ready }))))
      else verifyFails n i .markFailed .markFailed checked s := by
  obtain ⟨number, work, sector, line, active⟩ := j
  cases hw
  simp only [publishedMarkDone, hj, hi]

/-- What an announcement raises follows from the name and the generation alone (R120). -/
theorem announce_state (x : ImageState) : announce { im with state := x } s = announce im s := rfl

/-! ## NEWER -/

/-- A client unit with NEWER raised where it holds an older generation (R120). -/
def announced (name : Word32) (generation : Nat) (u : ClientUnit) : ClientUnit :=
  if holdsOlder u name generation then { u with port := { u.port with causes := { u.port.causes with newer := true } } } else u

theorem announceAt_eq (name : Word32) (g : Nat) (s : State) (c : ClientId) :
    announceAt name g s c = s.setClient c (announced name g (s.client c)) := by
  unfold announceAt announced
  split
  · rfl
  · cases c <;> rfl

/-- The announcement is made at the four client ports, and nowhere else (R120). -/
theorem announce_eq {name : Word32} (h : im.name = some name) (s : State) :
    announce im s = { s with clients := s.clients.map fun _ u => announced name im.generation u } := by
  simp only [announce, h, Four.all, List.foldl_cons, List.foldl_nil, announceAt_eq]
  rfl

/-- A client port holds a BOUND record of a name at a lower generation (R120). -/
theorem holdsOlder_iff (u : ClientUnit) (name : Word32) (g : Nat) : holdsOlder u name g = true ↔
    ∃ e ∈ u.apertures, ∃ r, e.2 = some r ∧ r.revoked = false ∧ r.name = name ∧ r.generation < g := by
  simp only [holdsOlder, List.any_eq_true]
  refine exists_congr fun e => and_congr_right fun _ => ?_
  cases e.2 with
  | none => simp
  | some r => simp [and_assoc]

/-! ## Jobs -/

theorem endJob_of (hj : s.job n = some j) (outcome : JobOutcome) (progress : Option Nat) : endJob n outcome progress s =
    clearTargets n { s with
      jobs := s.jobs.filter (·.number != n)
      lastOutcomes := Table.put none s.lastOutcomes n
        (some { kind := j.work.kind, target := j.work.target, outcome, progress }) } := by
  simp only [endJob, hj]

/-- A sector record after a job's targets are removed (R97). -/
theorem sector_clearTargets (hw : Table.wf {} s.sectors = true) (n m : Nat) : (clearTargets n s).sector m =
    if (s.sector m).target = some n then { s.sector m with target := none } else s.sector m :=
  Table.get_map _ rfl hw m

/-! ## Erases -/

theorem eraseDone_discard {remaining : Nat} (hj : s.job n = some j) (hw : j.work = .discard i remaining)
    (hi : s.image i = some im) (sector : Nat) :
    eraseDone n sector .completion s = (if remaining ≤ 1 then discardDone n i im s else discardNext n i remaining sector im s)
    ∧ eraseDone n sector .timeout s = discardFails n i remaining .eraseFailed .eraseFailed s
    ∧ eraseDone n sector .protection s = discardFails n i remaining .protection .protection s := by
  obtain ⟨number, work, sector', line, active⟩ := j
  cases hw
  simp only [eraseDone, hj, hi, and_self]

theorem eraseDone_erase {m : Nat} (hj : s.job n = some j) (hw : j.work = .erase m) (sector : Nat) :
    eraseDone n sector .completion s = raise .mgmt .jobDone (endJob n .done none
        (s.updSector sector fun r => { r with failed := false }))
      ∧ eraseDone n sector .timeout s = raise .mgmt .jobFailed (endJob n .eraseFailed none s)
      ∧ eraseDone n sector .protection s = raise .mgmt .jobFailed (endJob n .protection none s) := by
  obtain ⟨number, work, sector', line, active⟩ := j
  cases hw
  simp only [eraseDone, hj, and_self]

/-! ## Events that cannot come -/

/-- An event that cannot come leaves the state as it is (log 2). -/
theorem next_concluded {o : Option State} (h : o = none) : (Host.Outcome.next (concluded o s) : Result) = .next s := by rw [h]; rfl

variable {b : BankId}

theorem senseDone_none (hr : ∀ a, (s.bank b).activity ≠ .sensing (.read a))
    (hv : ∀ j m n, (s.bank b).activity ≠ .sensing (.verify j m n)) : senseDone b s = none := by
  unfold senseDone
  split
  · rename_i a ha; exact absurd ha (hr a)
  · rename_i j m n ha; exact absurd ha (hv j m n)
  · rfl

theorem blankCheckDone_none (h : ∀ q, (s.bank b).activity ≠ .programming q .blankCheck) : blankCheckDone b s = none := by
  unfold blankCheckDone
  split
  · rename_i q ha; exact absurd ha (h q)
  · rfl

theorem programDone_none (h : ∀ q n, (s.bank b).activity ≠ .programming q (.program n)) :
    programDone b s = none ∧ programTimedOut b s = none := by
  unfold programDone programTimedOut
  constructor <;> split
  · rename_i q n ha; exact absurd ha (h q n)
  · rfl
  · rename_i q n ha; exact absurd ha (h q n)
  · rfl

theorem readBackDone_none (h : ∀ q, (s.bank b).activity ≠ .programming q .readBack) (equal : Bool) :
    readBackDone b equal s = none := by
  unfold readBackDone
  split
  · rename_i q ha; exact absurd ha (h q)
  · rfl

/-- A running erase needs its activity and a context that is not SUSPENDED (R65). -/
theorem runningErase_none {k : Bank} (h : (k.activity ≠ .erasing ∧ ∀ n, k.activity ≠ .suspending n)
    ∨ ∀ e, ¬ (k.erase = some e ∧ e.suspended = false)) : runningErase k = none := by
  cases hrun : runningErase k with
  | none => rfl
  | some e =>
    obtain ⟨he, hs, ha⟩ := Invariants.runningErase_eq hrun
    rcases h with ⟨h1, h2⟩ | h
    · rcases ha with ha | ⟨n, ha⟩
      · exact absurd ha h1
      · exact absurd ha (h2 n)
    · exact absurd ⟨he, hs⟩ (h e)

theorem erase_none (h : runningErase (s.bank b) = none) : eraseCompletes b s = none ∧ eraseTimesOut b s = none := by
  simp only [eraseCompletes, eraseTimesOut, h, Option.map_none, and_self]

theorem suspendDone_none (h : (∀ n, (s.bank b).activity ≠ .suspending n)
    ∨ ∀ e, ¬ ((s.bank b).erase = some e ∧ e.suspended = false)) : suspendDone b s = none := by
  unfold suspendDone
  split
  · rename_i n e ha hrun
    rcases h with h | h
    · exact absurd ha (h n)
    · rw [runningErase_none (Or.inr h)] at hrun
      cases hrun
  · rfl

theorem lockoutExpires_none (h : (s.bank b).activity ≠ .erasing
    ∨ ∀ e, (s.bank b).erase = some e ∧ e.suspended = false → e.lockout = 0 ∨ 2000000 ≤ e.runningTime + e.lockout) :
    lockoutExpires b s = none := by
  unfold lockoutExpires
  split
  · rename_i e ha hrun
    rcases h with h | h
    · exact absurd ha h
    · obtain ⟨he, hs, -⟩ := Invariants.runningErase_eq hrun
      rw [if_neg]
      rintro ⟨hl, ht⟩
      rcases h e ⟨he, hs⟩ with h0 | h2
      · exact absurd h0 (Nat.pos_iff_ne_zero.mp hl)
      · exact absurd h2 (Nat.not_le.mpr ht)
  · rfl

/-- A settings-store program ends only while a program operation runs (R141). -/
theorem settingsProgram_none (h : ∀ o, s.op = some o → o.running = false ∨ o.work.isErase = true) :
    (∀ equal, settingsProgramDone equal s = none) ∧ settingsProgramTimedOut s = none := by
  unfold settingsProgramDone settingsProgramTimedOut
  cases hr : runningOp s with
  | none => exact ⟨fun _ => rfl, rfl⟩
  | some o =>
    obtain ⟨ho, hrun⟩ := Acts.of_runningOp hr
    rcases h o ho with h | h
    · exact absurd hrun (by rw [h]; decide)
    · simp only [h, if_true, implies_true, and_self]

/-- A settings-store erase ends only while an erase operation runs (R141). -/
theorem settingsErase_none (h : ∀ o, s.op = some o → o.running = false ∨ o.work.isErase = false) :
    settingsEraseDone s = none ∧ settingsEraseTimedOut s = none := by
  unfold settingsEraseDone settingsEraseTimedOut
  cases hr : runningOp s with
  | none => exact ⟨rfl, rfl⟩
  | some o =>
    obtain ⟨ho, hrun⟩ := Acts.of_runningOp hr
    rcases h o ho with h | h
    · exact absurd hrun (by rw [h]; decide)
    · simp only [h, Bool.false_eq_true, if_false, and_self]

theorem settingsReadDone_none (h : s.scanStage ≠ .readingSettings ∨ s.resetHeld = true) : settingsReadDone s = none := by
  refine if_neg fun ⟨h1, h2⟩ => ?_
  rcases h with h | h
  · exact h h1
  · rw [h] at h2; cases h2

theorem scanSenseCompletes_none (h : s.scanStage ≠ .scanning ∨ s.resetHeld = true
    ∨ (s.bank (bankOf s.scanPosition)).activity ≠ .sensing (.scan s.scanPosition)) : scanSenseCompletes s = none := by
  refine if_neg fun ⟨h1, h2, h3⟩ => ?_
  rcases h with h | h | h
  · exact h h1
  · rw [h] at h2; cases h2
  · exact h h3

theorem next_getD {o : Option State} (h : o = none) : (Host.Outcome.next (o.getD s) : Result) = .next s := by rw [h]; rfl

end

/-! ## The statements -/

/-- Settles O47: each issuer's end, with the slot and the entry it finds. -/
theorem programSequenceEndsForItsIssuer : Obligations.ProgramSequenceEndsForItsIssuer := by
  refine fun s => ⟨fun i im => ⟨rfl, rfl, rfl⟩, ⟨rfl, rfl, rfl⟩, fun i length crc => ⟨fun n im hn hi => ?_, rfl, rfl⟩,
    fun i im out hi => ?_, fun i im n out hn hi => discardEnded_some hn hi out,
    fun n j i marking checked crc im hj hw hi => ⟨?_, fun out hout => ?_⟩⟩
  · exact publishEnded_done hn hi
  · refine (retireEnded_some hi out).trans ?_
    rw [retiredImage_eq]
    rfl
  · exact publishedMarkDone_of hj hw hi true
  · refine (publishedMarkDone_of hj hw hi (decide (out = .done))).trans ?_
    rw [decide_eq_false hout, verifyFails, Kept.updImage_some hi]
    rfl

/-- Settles O48: one unit of each client port is decided by what it holds. -/
theorem newerIsRaisedWhereAnOlderGenerationIsBound : Obligations.NewerIsRaisedWhereAnOlderGenerationIsBound := by
  refine fun name im s h => ⟨_, announce_eq h s, fun c => (Quad.get_map ..).trans ?_⟩
  show announced name im.generation (s.client c) = _
  simp only [announced, holdsOlder_iff]

/-- Settles O50. -/
theorem eraseEndsForItsJob : Obligations.EraseEndsForItsJob := by
  refine fun n sector j s hj => ⟨fun i remaining im hw hi => ?_, fun m hw => eraseDone_erase hj hw sector⟩
  obtain ⟨hdone, htimeout, hprotected⟩ := eraseDone_discard hj hw hi sector
  refine ⟨fun hr => hdone.trans (if_neg (Nat.not_le.mpr hr)), fun hr => hdone.trans (if_pos hr), htimeout.trans ?_,
    hprotected.trans ?_⟩
  · rw [discardFails, Kept.updImage_some hi]
  · rw [discardFails, Kept.updImage_some hi]

/-- Settles O51. -/
theorem jobEndKeepsItsLastOutcome : Obligations.JobEndKeepsItsLastOutcome := by
  intro n outcome progress j s hc hj
  have hgone := Kept.job_endJob (s := s) n outcome progress
  rw [endJob_of hj] at hgone ⊢
  exact ⟨rfl, hgone, fun m => Table.get_put hc.lastOutcomes n m _, fun m => sector_clearTargets hc.sectors n m,
    rfl, rfl, rfl, rfl, rfl⟩

/-- Settles O54: the function of each event answers none. -/
theorem eventThatCannotComeChangesNothing : Obligations.EventThatCannotComeChangesNothing := by
  refine ⟨fun b s => ⟨fun hr hv => next_concluded (senseDone_none hr hv), fun h => next_concluded (blankCheckDone_none h),
    fun h => ⟨next_concluded (programDone_none h).1, next_concluded (programDone_none h).2⟩,
    fun h equal => next_concluded (readBackDone_none h equal),
    fun h => ⟨next_concluded (erase_none (runningErase_none h)).1, next_concluded (erase_none (runningErase_none h)).2⟩,
    fun h => next_concluded (suspendDone_none h), fun h => next_concluded (lockoutExpires_none h)⟩,
    fun s => ⟨fun h => ⟨fun equal => next_concluded ((settingsProgram_none h).1 equal),
      next_concluded (settingsProgram_none h).2⟩,
    fun h => ⟨next_concluded (settingsErase_none h).1, next_concluded (settingsErase_none h).2⟩,
    fun h => next_getD (settingsReadDone_none h), fun h => next_getD (scanSenseCompletes_none h)⟩⟩

end Sys2Proof.Proofs.Ends

/-! # Encodings (R154, R155, R164, R173 to R179): the statements O4, O8, O9 and O10

A number that fits its field is read back from the bytes that hold it; frames, header lines and boot entries are such
fields one behind another. -/

namespace Sys2Proof.Proofs.Encodings

open Sys2Proof Sys2Proof.Machine Sys2Proof.Proofs.Rules

/-! ## Fields -/

theorem length_be (w n : Nat) : (be w n).length = w := by
  induction w with
  | zero => rfl
  | succ w ih => rw [be, List.length_cons, ih]

/-- Reading on from a number. -/
theorem foldl_be (w n a : Nat) :
    (be w n).foldl (fun (n : Nat) (b : Byte) => n * 256 + b.toNat) a = a * 256 ^ w + n % 256 ^ w := by
  induction w generalizing a with
  | zero => rw [be, List.foldl_nil, Nat.pow_zero, Nat.mul_one, Nat.mod_one, Nat.add_zero]
  | succ w ih =>
    have hsplit : n % 256 ^ (w + 1) = 256 ^ w * (n / 256 ^ w % 256) + n % 256 ^ w := by
      rw [Nat.pow_succ, Nat.mod_mul, Nat.add_comm]
    rw [be, List.foldl_cons, ih, hsplit, BitVec.toNat_ofNat, Nat.pow_succ]
    ring

/-- A number that fits is read back (R173). -/
theorem unbe_be {w n : Nat} (h : n < 256 ^ w) : unbe (be w n) = n := by
  rw [unbe, foldl_be, Nat.zero_mul, Nat.zero_add, Nat.mod_eq_of_lt h]

/-- A 32-bit value is read back from its field. -/
theorem ofNat_unbe_be (v : Word32) : BitVec.ofNat 32 (unbe (be 4 v.toNat)) = v := by
  rw [unbe_be (w := 4) v.isLt, BitVec.ofNat_toNat, BitVec.setWidth_eq]

theorem foldl_lt (l : List Byte) (a : Nat) :
    l.foldl (fun (n : Nat) (b : Byte) => n * 256 + b.toNat) a < (a + 1) * 256 ^ l.length := by
  induction l generalizing a with
  | nil => simp
  | cons b l ih =>
    have hb : b.toNat < 256 := b.isLt
    calc (b :: l).foldl (fun (n : Nat) (b : Byte) => n * 256 + b.toNat) a < (a * 256 + b.toNat + 1) * 256 ^ l.length := ih _
      _ ≤ ((a + 1) * 256) * 256 ^ l.length := Nat.mul_le_mul_right _ (by omega)
      _ = (a + 1) * 256 ^ (b :: l).length := by rw [List.length_cons, Nat.pow_succ, Nat.mul_assoc, Nat.mul_comm 256]

/-- A field of `w` bytes holds a number below 256 to the power `w`. -/
theorem field_lt (line : List Byte) (off w : Nat) : field line off w < 256 ^ w := by
  have h := foldl_lt ((line.drop off).take w) 0
  rw [Nat.zero_add, Nat.one_mul] at h
  exact Nat.lt_of_lt_of_le h (Nat.pow_le_pow_right (by decide) (List.length_take_le ..))

theorem fits_iff (w n : Nat) : fits w n = true ↔ n < 256 ^ w := decide_eq_true_iff

/-! ## Request frames (R177) -/

section
variable {tag : Byte} {r : Request}

/-- The parameters of a well-formed request fit the length field of its frame. -/
theorem length_params_lt (h : r.wf = true) : r.params.length < 256 ^ 2 := by
  cases r with
  | write i o d =>
    simp only [Request.wf, Bool.and_eq_true, fits_iff] at h
    simpa only [Request.params, List.length_append, length_be] using h.2
  | _ => simp only [Request.params, List.length_append, length_be, List.length_nil, Nat.reduceAdd, Nat.reducePow, Nat.reduceLT]

/-- The frame of a request, byte by byte up to its parameters (R177). -/
theorem requestFrame_eq (tag : Byte) (r : Request) : ∃ crc, requestFrame tag r =
    r.code :: tag :: (be 2 r.params.length ++ (r.params ++ [crc])) := by
  refine ⟨crc8 ([r.code, tag] ++ be 2 r.params.length ++ r.params), ?_⟩
  simp only [requestFrame, List.cons_append, List.nil_append, List.append_assoc]

theorem frameCorrect_requestFrame (h : r.wf = true) : frameCorrect (requestFrame tag r) = true := by
  have hlength : (requestFrame tag r).length = 5 + field (requestFrame tag r) 2 2 := by
    obtain ⟨crc, heq⟩ := requestFrame_eq tag r
    have hfield : field (requestFrame tag r) 2 2 = unbe (be 2 r.params.length) := by rw [heq]; rfl
    rw [hfield, unbe_be (length_params_lt h), heq]
    simp only [List.length_cons, List.length_append, length_be, List.length_nil]
    omega
  have hlast : (requestFrame tag r).getLast? = some (crc8 (requestFrame tag r).dropLast) := by
    rw [requestFrame, List.getLast?_concat, List.dropLast_concat]
  rw [frameCorrect, decide_eq_true hlength, hlast, beq_self_eq_true, Bool.and_self]

theorem frameParams_requestFrame (tag : Byte) (r : Request) : frameParams (requestFrame tag r) = r.params := by
  obtain ⟨crc, heq⟩ := requestFrame_eq tag r
  have hdrop : (requestFrame tag r).drop 4 = r.params ++ [crc] := by rw [heq]; rfl
  rw [frameParams, hdrop, List.dropLast_concat]

/-- The parameters of a well-formed request decode to it (R178, R179). -/
theorem decodeRequest_params (h : r.wf = true) : decodeRequest r.code r.params = some r := by
  cases r <;> simp only [Request.wf, Bool.and_eq_true, fits_iff] at h
  case write i o d =>
    obtain ⟨⟨hi, ho⟩, -⟩ := h
    have hlength : 6 ≤ (be 2 i ++ be 4 o ++ d).length := by simp only [List.length_append, length_be]; omega
    have hfields : decodeRequest (Request.write i o d).code (Request.write i o d).params =
      if 6 ≤ (be 2 i ++ be 4 o ++ d).length then some (.write (unbe (be 2 i)) (unbe (be 4 o)) d) else none := rfl
    rw [hfields, if_pos hlength, unbe_be hi, unbe_be ho]
  case entry i => exact congrArg (fun i => some (Request.entry i)) (unbe_be h)
  case find n => exact congrArg (fun n => some (Request.find n)) (ofNat_unbe_be n)
  case sector n => exact congrArg (fun n => some (Request.sector n)) (unbe_be h)
  case openImage n f c k l =>
    obtain ⟨⟨⟨hf, hc⟩, hk⟩, hl⟩ := h
    show some (Request.openImage (BitVec.ofNat 32 (unbe (be 4 n.toNat))) (unbe (be 1 f)) (unbe (be 2 c)) (unbe (be 1 k))
      (unbe (be 1 l))) = _
    rw [ofNat_unbe_be, unbe_be hf, unbe_be hc, unbe_be hk, unbe_be hl]
  case publish i n c =>
    show some (Request.publish (unbe (be 2 i)) (unbe (be 4 n)) (BitVec.ofNat 32 (unbe (be 4 c.toNat)))) = _
    rw [unbe_be h.1, unbe_be h.2, ofNat_unbe_be]
  case abandon j => exact congrArg (fun j => some (Request.abandon j)) (unbe_be h)
  case retire i => exact congrArg (fun i => some (Request.retire i)) (unbe_be h)
  case revoke i => exact congrArg (fun i => some (Request.revoke i)) (unbe_be h)
  case discard i => exact congrArg (fun i => some (Request.discard i)) (unbe_be h)
  case erase n => exact congrArg (fun n => some (Request.erase n)) (unbe_be h)
  case clearAccessed i => exact congrArg (fun i => some (Request.clearAccessed i)) (unbe_be h)
  case read i o n =>
    obtain ⟨⟨hi, ho⟩, hn⟩ := h
    show some (Request.read (unbe (be 2 i)) (unbe (be 4 o)) (unbe (be 2 n))) = _
    rw [unbe_be hi, unbe_be ho, unbe_be hn]
  case readRaw n l f k =>
    obtain ⟨⟨⟨hn, hl⟩, hf⟩, hk⟩ := h
    show some (Request.readRaw (unbe (be 1 n)) (unbe (be 1 l)) (unbe (be 1 f)) (unbe (be 2 k))) = _
    rw [unbe_be hn, unbe_be hl, unbe_be hf, unbe_be hk]
  case setLevel p l =>
    show some (Request.setLevel (unbe (be 1 p)) (unbe (be 1 l))) = _
    rw [unbe_be h.1, unbe_be h.2]
  case protect g => exact congrArg (fun g => some (Request.protect g)) (unbe_be h)
  case bootSet p a b l =>
    show some (Request.bootSet (unbe (be 1 p)) (BitVec.ofNat 32 (unbe (be 4 a.toNat)))
      (BitVec.ofNat 32 (unbe (be 4 b.toNat))) (unbe (be 1 l))) = _
    rw [unbe_be h.1, ofNat_unbe_be, ofNat_unbe_be, unbe_be h.2]
  case bind a n g =>
    show some (Request.bind (unbe (be 1 a)) (BitVec.ofNat 32 (unbe (be 4 n.toNat))) (unbe (be 2 g))) = _
    rw [unbe_be h.1, ofNat_unbe_be, unbe_be h.2]
  case unbind a => exact congrArg (fun a => some (Request.unbind a)) (unbe_be h)
  case describe a => exact congrArg (fun a => some (Request.describe a)) (unbe_be h)
  case fetch a o n t =>
    obtain ⟨⟨⟨ha, ho⟩, hn⟩, ht⟩ := h
    show some (Request.fetch (unbe (be 1 a)) (unbe (be 4 o)) (unbe (be 1 n)) (unbe (be 1 t))) = _
    rw [unbe_be ha, unbe_be ho, unbe_be hn, unbe_be ht]
  all_goals rfl

/-- A request's frame is checked as its row is (R164; log 1). -/
theorem frameArrives_requestFrame {p : Port} (h : r.wf = true) (ha : accepts p r.code = true) (s : State) :
    frameArrives p (requestFrame tag r) s = arrive p tag r s := by
  obtain ⟨crc, heq⟩ := requestFrame_eq tag r
  have hkind : frameKind (requestFrame tag r) = r.code := rfl
  have htag : frameTag (requestFrame tag r) = tag := rfl
  have hanswer : ∀ st, answerFrame p (requestFrame tag r) st s = answer p r.code tag st s := fun st => by rw [heq]; rfl
  simp only [frameArrives, frameCorrect_requestFrame h, hkind, htag, ha, frameParams_requestFrame, decodeRequest_params h,
    hanswer, Bool.not_true, Bool.false_eq_true, if_false, arrive]

/-- A request row's port accepts its kind (R166). -/
theorem accepts_requestOf {c : Instr} {p : Port} (h : requestOf c = some (p, tag, r)) : accepts p r.code = true := by
  cases c <;> simp only [requestOf, Option.some.injEq, Prod.mk.injEq, reduceCtorEq] at h <;> obtain ⟨rfl, rfl, rfl⟩ := h
  case identify p tag => cases p <;> rfl
  case poll p tag => cases p <;> rfl
  all_goals rfl

end

/-! ## Header lines (R154, R155, R174) -/

section
variable {line : List Byte} {n : Nat}

/-- A field of four bytes is blank exactly when it reads four times 0xFF (R173). -/
theorem blankField_four {off : Nat} (h : line.length = 256) (hoff : off ≤ 252) :
    blankField line off 4 = true ↔ (line.drop off).take 4 = [0xFF, 0xFF, 0xFF, 0xFF] := by
  have hlength : ((line.drop off).take 4).length = 4 := by simp only [List.length_take, List.length_drop]; omega
  simp only [blankField, List.all_eq_true, beq_iff_eq]
  exact ⟨fun hall => List.eq_replicate_of_mem hall |>.trans (by rw [hlength]; rfl), fun heq b hb => by
    rw [heq] at hb; simpa using hb⟩

/-- The seven conditions of a valid header line of a sector (R154). -/
structure ValidHeader (n : Nat) (line : List Byte) : Prop where
  signature : line.take 4 = signature
  check : field line 16 2 = (crc16 ((line.drop 4).take 11)).toNat
  name : field32 line 4 ≠ 0
  generation : 1 ≤ field line 8 2
  first : field line 10 1 = n
  count : 1 ≤ field line 12 2 ∧ field line 12 2 ≤ 256 ∧ n + field line 12 2 - 1 ≤ 255
  kind : 1 ≤ field line 11 1 ∧ field line 11 1 ≤ 3
  level : field line 14 1 ≤ 3
  published : ∀ p, publishedFields line = some p → 1 ≤ p.1 ∧ p.1 ≤ capacity (field line 12 2)

/-- The image a valid header line describes (R155). -/
def describedImage (line : List Byte) : Image :=
  { state := markedState line, name := some (field32 line 4), generation := field line 8 2, first := field line 10 1
    count := field line 12 2
    kind := if field line 11 1 = 1 then .exec else if field line 11 1 = 2 then .code else .data
    level := field line 14 1, published := publishedFields line }

/-- The check of a header line is one test with two outcomes (R154). -/
theorem headerImage_cases (n : Nat) (line : List Byte) : (ValidHeader n line ∧ headerImage n line = some (describedImage line))
    ∨ (¬ ValidHeader n line ∧ headerImage n line = none) := by
  unfold headerImage describedImage
  rw [Images.kindOfCode_eq]
  generalize (if field line 11 1 = 1 then Kind.exec else if field line 11 1 = 2 then .code else .data) = kind
  by_cases hk : 1 ≤ field line 11 1 ∧ field line 11 1 ≤ 3
  · rw [if_pos hk]
    dsimp only
    split_ifs with hc
    · simp only [Bool.and_eq_true, beq_iff_eq, bne_iff_ne, decide_eq_true_eq] at hc
      obtain ⟨⟨⟨⟨⟨⟨⟨⟨⟨hs, hcheck⟩, hname⟩, hg⟩, hf⟩, hc1⟩, hc2⟩, hc3⟩, hl⟩, hp⟩ := hc
      refine Or.inl ⟨⟨hs, hcheck, hname, hg, hf, ⟨hc1, hc2, hc3⟩, hk, hl, fun p hsome => ?_⟩, rfl⟩
      rw [hsome] at hp
      simpa only [Bool.and_eq_true, decide_eq_true_eq] using hp
    · refine Or.inr ⟨fun hv => hc ?_, rfl⟩
      simp only [Bool.and_eq_true, beq_iff_eq, bne_iff_ne, decide_eq_true_eq]
      refine ⟨⟨⟨⟨⟨⟨⟨⟨⟨hv.signature, hv.check⟩, hv.name⟩, hv.generation⟩, hv.first⟩, hv.count.1⟩, hv.count.2.1⟩,
        hv.count.2.2⟩, hv.level⟩, ?_⟩
      cases hsome : publishedFields line with
      | none => rfl
      | some p => simpa only [Bool.and_eq_true, decide_eq_true_eq] using hv.published p hsome
  · rw [if_neg hk]
    exact Or.inr ⟨fun hv => hk hv.kind, rfl⟩

theorem headerImage_of_valid (h : ValidHeader n line) : headerImage n line = some (describedImage line) := by
  rcases headerImage_cases n line with ⟨-, himage⟩ | ⟨hn, -⟩
  · exact himage
  · exact absurd h hn

theorem headerImage_ne_none : headerImage n line ≠ none ↔ ValidHeader n line := by
  rcases headerImage_cases n line with ⟨hv, himage⟩ | ⟨hn, hnone⟩
  · exact iff_of_true (by rw [himage]; exact Option.some_ne_none _) hv
  · exact iff_of_false (fun h => h hnone) hn

/-- What a valid header line's image takes from it (R155). -/
theorem headerImage_eq_some {im : Image} (h : headerImage n line = some im) : ValidHeader n line ∧ im = describedImage line := by
  rcases headerImage_cases n line with ⟨hv, himage⟩ | ⟨-, hnone⟩
  · exact ⟨hv, Option.some.inj (h.symm.trans himage)⟩
  · rw [hnone] at h
    cases h

/-- A 32-bit field is 0 exactly when its number is. -/
theorem field32_eq_zero (line : List Byte) (off : Nat) : field32 line off = 0 ↔ field line off 4 = 0 := by
  have hlt : field line off 4 < 2 ^ 32 := field_lt line off 4
  rw [field32, ← BitVec.toNat_inj, BitVec.toNat_ofNat, Nat.mod_eq_of_lt hlt]
  rfl

/-- Payload length and expected CRC of a line, by its blank fields (R3, R174). -/
theorem publishedFields_eq (h : line.length = 256) : publishedFields line =
    if (line.drop 32).take 4 = [0xFF, 0xFF, 0xFF, 0xFF] ∨ (line.drop 36).take 4 = [0xFF, 0xFF, 0xFF, 0xFF] then none
    else some (field line 32 4, field32 line 36) := by
  unfold publishedFields
  refine if_congr ?_ rfl rfl
  rw [Bool.or_eq_true, blankField_four h (by decide), blankField_four h (by decide)]

/-- The published fields of a line keep within its capacity, by its blank fields (R3, R154). -/
theorem published_within (h : line.length = 256) {c : Nat} :
    (∀ p, publishedFields line = some p → 1 ≤ p.1 ∧ p.1 ≤ c) ↔
      (¬ ((line.drop 32).take 4 = [0xFF, 0xFF, 0xFF, 0xFF] ∨ (line.drop 36).take 4 = [0xFF, 0xFF, 0xFF, 0xFF]) →
        1 ≤ field line 32 4 ∧ field line 32 4 ≤ c) := by
  rw [publishedFields_eq h]
  split
  · rename_i hb
    exact iff_of_true (fun p hp => by cases hp) fun hn => absurd hb hn
  · rename_i hb
    exact ⟨fun hp _ => hp _ rfl, fun hp p hs => by cases hs; exact hp hb⟩

/-- The header line an OPEN writes has 256 bytes (R174). -/
theorem length_headerLine (name : Word32) (generation first : Nat) (kind : Kind) (count level : Nat) :
    (headerLine name generation first kind count level).length = 256 := by
  simp only [headerLine, headerFields, signature, blanks, List.length_append, length_be, List.length_replicate,
    List.length_cons, List.length_nil]

theorem kind_number (kind : Kind) : (1 ≤ kind.number ∧ kind.number ≤ 3)
    ∧ (if kind.number = 1 then Kind.exec else if kind.number = 2 then .code else .data) = kind := by
  cases kind <;> decide

/-- The header line an OPEN writes reads back as the image opened (R108, R154, R155). -/
theorem headerImage_headerLine {name : Word32} {generation first count level : Nat} (kind : Kind) (hname : name ≠ 0)
    (hg1 : 1 ≤ generation) (hg : generation ≤ 65535) (hc1 : 1 ≤ count) (hc : count ≤ 256) (hf : first + count - 1 ≤ 255)
    (hl : level ≤ 3) : headerImage first (headerLine name generation first kind count level)
      = some { state := .opened, name := some name, generation, first, count, kind, level } := by
  obtain ⟨⟨hk1, hk3⟩, hkind⟩ := kind_number kind
  have h16 : field (headerLine name generation first kind count level) 16 2
      = (crc16 (headerFields name generation first kind count level)).toNat := unbe_be (w := 2) (BitVec.isLt _)
  have h4 : field32 (headerLine name generation first kind count level) 4 = name := ofNat_unbe_be name
  have h8 : field (headerLine name generation first kind count level) 8 2 = generation :=
    unbe_be (w := 2) (Nat.lt_succ_of_le hg)
  have h10 : field (headerLine name generation first kind count level) 10 1 = first := unbe_be (w := 1) (by omega)
  have h11 : field (headerLine name generation first kind count level) 11 1 = kind.number := unbe_be (w := 1) (by omega)
  have h12 : field (headerLine name generation first kind count level) 12 2 = count := unbe_be (w := 2) (by omega)
  have h14 : field (headerLine name generation first kind count level) 14 1 = level := unbe_be (w := 1) (by omega)
  have hpublished : publishedFields (headerLine name generation first kind count level) = none := by
    rw [publishedFields_eq (length_headerLine ..)]
    exact if_pos (Or.inl rfl)
  have hmarks : markedState (headerLine name generation first kind count level) = .opened := rfl
  rw [headerImage_of_valid, describedImage, h4, h8, h10, h11, h12, h14, hpublished, hmarks, hkind]
  exact ⟨rfl, h16, by rwa [h4], by rwa [h8], h10, by rw [h12]; exact ⟨hc1, hc, hf⟩, by rw [h11]; exact ⟨hk1, hk3⟩,
    by rwa [h14], fun p hp => by rw [hpublished] at hp; cases hp⟩

/-! ## Marks (R155) -/

/-- Within the line a byte reads the same whatever stands for a byte behind it. -/
theorem byteAt_eq (h : line.length = 256) {off : Nat} (hoff : off < 256) : byteAt line off = line.getD off 0 := by
  have hin : off < line.length := h ▸ hoff
  rw [byteAt, List.getD_eq_getElem _ _ hin, List.getD_eq_getElem _ _ hin]

theorem markTorn_iff (b : Byte) : markTorn b = true ↔ b ≠ 0x00 ∧ b ≠ 0xFF := by
  rw [markTorn, Bool.and_eq_true, bne_iff_ne, bne_iff_ne]

/-- The state the marks record: the first row that applies (R155). -/
theorem markedState_eq (h : line.length = 256) : markedState line =
    if line.getD 66 0 ≠ 0xFF then .bad .discardInterrupted
    else if (line.getD 64 0 ≠ 0x00 ∧ line.getD 64 0 ≠ 0xFF) ∨ (line.getD 65 0 ≠ 0x00 ∧ line.getD 65 0 ≠ 0xFF) then .bad .tornMark
    else if line.getD 65 0 = 0x00 then .retired
    else if line.getD 64 0 = 0x00 then .ready
    else .opened := by
  simp only [markedState, byteAt_eq h (show 64 < 256 by decide), byteAt_eq h (show 65 < 256 by decide),
    byteAt_eq h (show 66 < 256 by decide), bne_iff_ne, Bool.or_eq_true, markTorn_iff, beq_iff_eq]

/-! ## Boot entries (R145, R146, R175) -/

/-- Eleven blank bytes (R145). -/
theorem bootForm_blank : bootForm (List.replicate 11 0xFF) = .blank := by decide

theorem all_blank_iff {bytes : List Byte} (h : bytes.length = 11) :
    bytes.all (· == 0xFF) = true ↔ bytes = List.replicate 11 0xFF := by
  simp only [List.all_eq_true, beq_iff_eq]
  rw [List.eq_replicate_iff]
  exact ⟨fun hall => ⟨h, hall⟩, fun ⟨_, hall⟩ => hall⟩

/-- The form of eleven bytes (R145). -/
theorem bootForm_eq {bytes : List Byte} (h : bytes.length = 11) : bootForm bytes =
    if bytes = List.replicate 11 0xFF then .blank
    else if field bytes 9 2 = (crc16 (bytes.take 9)).toNat ∧ field bytes 0 4 ≠ 0 ∧ field bytes 8 1 ≤ 3
    then .valid (field32 bytes 0) (field32 bytes 4) (field bytes 8 1)
    else .invalid := by
  unfold bootForm
  refine if_congr (all_blank_iff h) rfl (if_congr ?_ rfl rfl)
  rw [Bool.and_eq_true, Bool.and_eq_true, decide_eq_true_iff, decide_eq_true_iff, bne_iff_ne, and_assoc, ne_eq, field32_eq_zero]

theorem length_bootEntryBytes (primary fallback : Word32) (level : Nat) : (bootEntryBytes primary fallback level).length = 11 := by
  simp only [bootEntryBytes, bootFields, List.length_append, length_be]

/-- The boot entry a BOOT_SET writes reads back as the copy it asked for (R145, R146). -/
theorem bootForm_bootEntryBytes {primary : Word32} (fallback : Word32) {level : Nat} (hp : primary ≠ 0) (hl : level ≤ 3) :
    bootForm (bootEntryBytes primary fallback level) = .valid primary fallback level := by
  have h0 : field32 (bootEntryBytes primary fallback level) 0 = primary := ofNat_unbe_be primary
  have h4 : field32 (bootEntryBytes primary fallback level) 4 = fallback := ofNat_unbe_be fallback
  have h8 : field (bootEntryBytes primary fallback level) 8 1 = level := unbe_be (w := 1) (by omega)
  have h9 : field (bootEntryBytes primary fallback level) 9 2 = (crc16 (bootFields primary fallback level)).toNat :=
    unbe_be (w := 2) (BitVec.isLt _)
  have hname : field (bootEntryBytes primary fallback level) 0 4 ≠ 0 := by
    rw [ne_eq, ← field32_eq_zero, h0]
    exact hp
  have hnotBlank : bootEntryBytes primary fallback level ≠ List.replicate 11 0xFF := fun heq => by
    have hlevel : level = 255 := by rw [← h8, heq]; rfl
    omega
  rw [bootForm_eq (length_bootEntryBytes ..), if_neg hnotBlank, if_pos ⟨h9, hname, by rw [h8]; exact hl⟩, h0, h4, h8]

end

/-! ## The statements -/

/-- Settles O4: the frame of a well-formed request passes every check. -/
theorem requestRowIsTheArrivalOfItsFrame : Obligations.RequestRowIsTheArrivalOfItsFrame := by
  intro c p tag r s hc hw
  have ha := accepts_requestOf hc
  exact ⟨ha, (exec_request hc s).trans (congrArg Host.Outcome.next (frameArrives_requestFrame hw ha s).symm)⟩

/-- Settles O8. -/
theorem requestFrameReadsBack : Obligations.RequestFrameReadsBack := by
  refine fun tag r h => ⟨frameCorrect_requestFrame h, rfl, rfl, ?_⟩
  rw [frameParams_requestFrame]
  exact decodeRequest_params h

/-- Settles O9: header lines, marks and boot entries, each by its lemmas. -/
theorem storedRecordsReadBack : Obligations.StoredRecordsReadBack := by
  refine ⟨fun name generation first count kind level hn hg1 hg hc1 hc hf hl => ⟨length_headerLine .., headerImage_headerLine kind hn hg1 hg hc1 hc hf hl⟩,
    fun line n h => ⟨?_, fun im him => ?_⟩, fun line h => ?_,
    ⟨fun primary fallback level hp hl => ⟨length_bootEntryBytes .., bootForm_bootEntryBytes fallback hp hl⟩, bootForm_blank⟩,
    fun bytes h => ?_⟩
  · have hgeneration : field line 8 2 ≤ 65535 := Nat.le_of_lt_succ (field_lt line 8 2)
    have hkind : (1 ≤ field line 11 1 ∧ field line 11 1 ≤ 3)
      ↔ (field line 11 1 = 1 ∨ field line 11 1 = 2 ∨ field line 11 1 = 3) := by omega
    refine headerImage_ne_none.trans ⟨fun hv => ?_, fun hv => ?_⟩
    · exact ⟨hv.signature, hv.check, ⟨mt (field32_eq_zero line 4).mpr hv.name, hv.generation, hgeneration⟩, hv.first, hv.count,
        ⟨hkind.mp hv.kind, hv.level⟩, (published_within h).mp hv.published⟩
    · obtain ⟨hs, hcheck, ⟨hname, hg, -⟩, hfirst, hcount, ⟨hk, hl⟩, hp⟩ := hv
      exact ⟨hs, hcheck, mt (field32_eq_zero line 4).mp hname, hg, hfirst, hcount, hkind.mpr hk, hl, (published_within h).mpr hp⟩
  · obtain ⟨hv, rfl⟩ := headerImage_eq_some him
    refine ⟨_, _, ?_, rfl, fun hb => (publishedFields_eq h).trans (if_pos hb), fun hb => (publishedFields_eq h).trans (if_neg hb)⟩
    rw [describedImage, hv.first]
    rfl
  · rw [markedState_eq h]
    refine ⟨fun hd => if_pos hd, fun hd ht => (if_neg (not_not_intro hd)).trans (if_pos ht), fun hd hp hr => ?_,
      fun hd hp hr => ?_, fun hd hp hr => ?_⟩
    · rw [if_neg (not_not_intro hd), if_neg (by rw [hr]; tauto), if_pos hr]
    · rw [if_neg (not_not_intro hd), hp, hr]
      rfl
    · rw [if_neg (not_not_intro hd), hp, hr]
      rfl
  · rw [bootForm_eq h]
    refine ⟨fun hb => if_pos hb, fun hr => (if_neg ?_).trans (if_pos hr), fun hb hr => (if_neg hb).trans (if_neg hr)⟩
    rintro rfl
    exact absurd hr.2.2 (by decide)

/-- Settles O10: each check value is computed. -/
theorem crcCheckValues : Obligations.CrcCheckValues := ⟨by decide +kernel, by decide +kernel, by decide +kernel⟩

end Sys2Proof.Proofs.Encodings

/-! # Arrivals and the link output (R162 to R168): the statements O5, O6 and O7 -/

namespace Sys2Proof.Proofs.Arrivals

open Sys2Proof Sys2Proof.Machine Sys2Proof.Proofs.Rules

section
variable {s : State} {p : Port} {tag : Byte} {r : Request}

/-- A port ignores what arrives while RESET is asserted or while it is RESETTING (R151, R164). -/
theorem ignores_iff (p : Port) (s : State) : ignores p s = true ↔ s.resetHeld = true ∨ (s.port p).state = .resetting := by
  rw [ignores, Bool.or_eq_true, beq_iff_eq]

theorem not_ignores (hheld : s.resetHeld = false) (hstate : (s.port p).state ≠ .resetting) : ignores p s = false := by
  rw [← Bool.not_eq_true, ignores_iff, hheld]
  exact fun h => h.elim (by simp) hstate

theorem arrive_ignored (h : ignores p s = true) : arrive p tag r s = s := if_pos h

theorem arrive_starting (hheld : s.resetHeld = false) (hstate : (s.port p).state = .starting) :
    arrive p tag r s = answer p r.code tag .starting s := by
  rw [arrive, not_ignores hheld (by rw [hstate]; decide), if_neg Bool.false_ne_true, if_pos hstate]

theorem arrive_ready (hheld : s.resetHeld = false) (hstate : (s.port p).state = .ready) :
    arrive p tag r s = enqueue p tag r s := by
  rw [arrive, not_ignores hheld (by rw [hstate]; decide), if_neg Bool.false_ne_true, if_neg (by rw [hstate]; decide)]

/-- The five conditions of a take (R167). -/
theorem canTake_iff (u : PortUnit) : u.canTake = true ↔
    u.state = .ready ∧ u.queue ≠ [] ∧ u.inService = false ∧ u.readMark = false ∧ u.notBegun.length < 8 := by
  simp only [PortUnit.canTake, Bool.and_eq_true, beq_iff_eq, Bool.not_eq_true', List.isEmpty_eq_false_iff, decide_eq_true_eq,
    and_assoc, Config.linkDepth, ne_eq]

/-- A port that is held back queues the request (R164, R167). -/
theorem enqueue_held (hroom : (s.port p).queue.length < 4)
    (hback : (s.port p).inService = true ∨ (s.port p).readMark = true ∨ 8 ≤ (s.port p).notBegun.length) :
    enqueue p tag r s = s.setPort p { s.port p with queue := (s.port p).queue ++ [(tag, r)] } := by
  refine (if_pos hroom).trans (takesAt_of_not ?_)
  rw [port_setPort, if_pos rfl, ← Bool.not_eq_true, canTake_iff]
  rintro ⟨-, -, hservice, hmark, hlink⟩
  rcases hback with h | h | h
  · exact absurd h (by rw [hservice]; decide)
  · exact absurd h (by rw [hmark]; decide)
  · exact absurd hlink (Nat.not_lt.mpr h)

/-- The kind byte of a request that a frame spells is the frame's (R179). -/
theorem code_of_decode {kind : Byte} {ps : List Byte} (h : decodeRequest kind ps = some r) : r.code = kind := by
  have hof : ∀ {n : Nat} {x : Request}, ofLength n ps x = some r → x = r := fun {n x} hx => by
    unfold ofLength at hx
    split at hx
    · exact Option.some.inj hx
    · cases hx
  unfold decodeRequest at h
  split at h
  case h_8 hk =>
    split at h
    · cases h
      exact BitVec.eq_of_toNat_eq hk.symm
    · cases h
  case h_28 => cases h
  all_goals
    rename_i hk
    cases hof h
    exact BitVec.eq_of_toNat_eq hk.symm

/-- A take begins with the head request in service (R162, R167). -/
theorem takeHead_cons {rest : List (Byte × Request)} (h : (s.port p).queue = (tag, r) :: rest) :
    takeHead p s = takeRequest p r (s.setPort p { s.port p with inService := true }) := by
  rw [takeHead, h]

/-- Along a list in ascending order the first answer is that of the least member that answers. -/
theorem findSome?_least {α β : Type} {key : α → Nat} {f : α → Option β} {a : α} {v : β} {l : List α}
    (hl : l.Pairwise fun c d => key c < key d) (ha : a ∈ l) (hv : f a = some v)
    (hlow : ∀ c, key c < key a → f c = none) : l.findSome? f = some v := by
  induction l with
  | nil => cases ha
  | cons c l ih =>
    obtain ⟨hc, hl⟩ := List.pairwise_cons.mp hl
    rw [List.findSome?_cons]
    rcases List.mem_cons.mp ha with rfl | ha
    · rw [hv]
    · rw [hlow c (hc a ha)]
      exact ih hl ha

theorem mem_ports (p : Port) : p ∈ Port.all := by
  cases p with
  | mgmt => decide
  | client c => cases c <;> decide

/-- The lowest port that can take is the one that takes (log 12). -/
theorem takeAny_eq_some (hc : (s.port p).canTake = true)
    (hlow : ∀ q : Port, q.number < p.number → (s.port q).canTake = false) : takeAny s = some (takeHead p s) := by
  have hfind : Port.all.find? (fun q => (s.port q).canTake) = some p := by
    rw [List.find?_eq_findSome?_guard]
    exact findSome?_least (key := Port.number) (by decide) (mem_ports p) (Option.guard_eq_some_iff.mpr ⟨rfl, hc⟩)
      fun q hq => Option.guard_eq_none_iff.mpr (hlow q hq)
  rw [takeAny, hfind]
  rfl

/-! ## Frames -/

/-- A frame that holds kind and tag is answered with them (R165). -/
theorem answerFrame_cons (kind tag : Byte) (rest : List Byte) (st : Status) :
    answerFrame p (kind :: tag :: rest) st s = answer p kind tag st s := rfl

/-- Check 2 of a frame that holds kind and tag (R164, R177). -/
theorem not_frameCorrect (kind tag : Byte) (rest : List Byte) : ((!frameCorrect (kind :: tag :: rest)) = true) =
    ¬ ((kind :: tag :: rest).length = 5 + unbe (rest.take 2)
      ∧ (kind :: tag :: rest).getLast? = some (crc8 (kind :: tag :: rest).dropLast)) :=
  Serving.check_fails (by rw [frameCorrect, Bool.and_eq_true, decide_eq_true_iff, beq_iff_eq]; rfl)

/-- A frame too short for kind and tag is not correct. -/
theorem frameCorrect_short {bytes : List Byte} (h : bytes.length < 2) : frameCorrect bytes = false := by
  rw [frameCorrect, decide_eq_false (by omega), Bool.false_and]

/-- What answers a frame too short for kind and tag (R165; log 16). -/
theorem answerFrame_eq (bytes : List Byte) (st : Status) : ∃ kind tag n, answerFrame p bytes st s =
    { s.setPort p ((s.port p).answerAtOnce kind tag st) with freeCount := n } := by
  refine ⟨(echoed s.freeCount bytes).1, (echoed s.freeCount bytes).2.1, s.freeCount + (echoed s.freeCount bytes).2.2, ?_⟩
  cases p <;> rfl

end

/-! ## The statements -/

/-- Settles O5. -/
theorem requestArrivesAtAPortThatDoesNotTake : Obligations.RequestArrivesAtAPortThatDoesNotTake := by
  intro c p tag r s hc
  rw [exec_request hc]
  refine ⟨fun h => ?_, fun hheld hstate => ?_, fun hheld hstate hfull => ?_, fun hheld hstate hroom hback => ?_⟩
  · rw [arrive_ignored ((ignores_iff p s).mpr h)]
  · rw [arrive_starting hheld hstate]
    rfl
  · rw [arrive_ready hheld hstate, enqueue, if_neg (Nat.not_lt.mpr hfull)]
    rfl
  · rw [arrive_ready hheld hstate, enqueue_held hroom hback]

/-- Settles O6: the checks in order; a frame that decodes has the kind of its request. -/
theorem frameIsCheckedInOrder : Obligations.FrameIsCheckedInOrder := by
  refine ⟨fun p kind tag rest s => ?_, fun p bytes s hshort => ⟨fun h => ?_, fun hheld hstate => ?_⟩⟩
  · refine congrArg Host.Outcome.next ?_
    show frameArrives p (kind :: tag :: rest) s = _
    simp only [frameArrives, ignores_iff, not_frameCorrect, answerFrame_cons]
    refine if_congr Iff.rfl rfl (if_congr Iff.rfl rfl (if_congr Iff.rfl rfl (if_congr (Bool.not_eq_true' _).to_iff rfl ?_)))
    show (match decodeRequest kind (rest.drop 2).dropLast with
      | none => answer p kind tag .frameError s
      | some r => enqueue p tag r s) = _
    cases hd : decodeRequest kind (rest.drop 2).dropLast with
    | none => rfl
    | some r =>
      show enqueue p tag r s = _
      rw [enqueue, code_of_decode hd]
      rfl
  · exact congrArg Host.Outcome.next (if_pos ((ignores_iff p s).mpr h))
  · obtain ⟨kind, tag, n, hanswer⟩ := answerFrame_eq (p := p) (s := s) bytes .frameError
    refine ⟨kind, tag, n, congrArg Host.Outcome.next ?_⟩
    show frameArrives p bytes s = _
    rw [frameArrives, not_ignores hheld hstate, if_neg Bool.false_ne_true, frameCorrect_short hshort, Bool.not_false, if_pos rfl,
      hanswer]
    rfl

/-- Settles O7: one take at a time, at the lowest port that can take. -/
theorem responseFrameSentBeginsTheNext : Obligations.ResponseFrameSentBeginsTheNext := by
  refine ⟨fun p s => ⟨fun h => ?_, fun f h => ?_⟩, canTake_iff, fun p s => ⟨takesAt_of_not, fun tag r rest hc hq => ?_,
    canTake_takesAt p s, fun h => takesAll_of_none (takeAny_none.mpr h), fun tag r rest hc hlow hq => ?_, canTake_takesAll p s, rfl⟩⟩
  · exact congrArg Host.Outcome.next (if_pos (by rw [h]; rfl))
  · refine congrArg Host.Outcome.next ((if_neg ?_).trans rfl)
    rw [h]
    exact Bool.false_ne_true
  · rw [takesAt_of_canTake hc, takeHead_cons hq]
  · rw [takesAll_of_some (takeAny_eq_some hc hlow), takeHead_cons hq]

end Sys2Proof.Proofs.Arrivals

/-! # Pins, resets and boot binding (R139, R149, R151, R152, R158 to R160): the statements O35, O37, O38, O39 and O41 -/

namespace Sys2Proof.Proofs.Pins

open Sys2Proof Sys2Proof.Machine Sys2Proof.Proofs.Rules

section
variable {s : State} {c : ClientId}

/-! ## Protection -/

theorem isProtected_iff (s : State) (n : Nat) : s.isProtected n = true ↔
    s.rowCopy.getLsbD (n / 4) = false ∨ (n / 4 ≤ 1 ∧ s.wpHigh = false) := by
  rw [State.isProtected, Bool.or_eq_true, Bool.and_eq_true, Bool.not_eq_true', Bool.not_eq_true', decide_eq_true_iff]
  rfl

/-! ## The release of RESET -/

/-- A client unit at the release of RESET (R152). -/
def begun (u : ClientUnit) : ClientUnit := if u.line then { u with port := { u.port with state := .resetting } } else u

/-- The management port record with CLIENT_RESET raised when `v` holds. -/
def noticed (v : Bool) (u : PortUnit) : PortUnit := if v then { u with causes := { u.causes with clientReset := true } } else u

theorem noticed_noticed (v w : Bool) (u : PortUnit) : noticed w (noticed v u) = noticed (v || w) u := by
  cases v <;> cases w <;> rfl

theorem beginPort_eq (s : State) (c : ClientId) : beginPort s c =
    { s with clients := s.clients.set c (begun (s.client c)), mgmt := noticed (s.client c).line s.mgmt } := by
  unfold beginPort begun noticed
  by_cases hl : (s.client c).line = true
  · rw [if_pos hl, if_pos hl, if_pos hl]
    rfl
  · rw [if_neg hl, if_neg hl, if_neg hl]
    cases c <;> rfl

/-- The release of RESET: each client port by its own line (R152). -/
theorem releaseReset_eq (h : s.resetHeld = true) : releaseReset s = { s with
    resetHeld := false
    clients := s.clients.map fun _ u => begun u
    mgmt := noticed ([Four.zero, .one, .two, .three].any fun c => (s.client c).line) s.mgmt } := by
  have hlines : ∀ a b c d : Bool, noticed d (noticed c (noticed b (noticed a s.mgmt)))
      = noticed (a || (b || (c || (d || false)))) s.mgmt := fun a b c d => by
    rw [noticed_noticed, noticed_noticed, noticed_noticed, Bool.or_false, ← Bool.or_assoc, ← Bool.or_assoc]
  rw [releaseReset, if_pos h]
  simp only [Four.all, List.foldl_cons, List.foldl_nil, beginPort_eq, List.any_cons, List.any_nil, ← hlines]
  rfl

/-! ## PORT_RESET -/

theorem assertPortReset_held (h : s.resetHeld = true) : assertPortReset c s = setLine c true s := if_pos h

theorem assertPortReset_eq (h : s.resetHeld = false) : assertPortReset c s = match (s.client c).port.state with
    | .ready => conclude (resetReadyPort c (setLine c true s))
    | .starting => raise .mgmt .clientReset
        ((setLine c true s).setPort (.client c) ((setLine c true s).client c).port.resetting)
    | .resetting => setLine c true s := by
  rw [assertPortReset, if_neg (by rw [h]; exact Bool.false_ne_true)] <;> rfl

theorem releasePortReset_line (h : s.resetHeld = true ∨ (s.client c).port.state ≠ .resetting) :
    releasePortReset c s = setLine c false s := by
  unfold releasePortReset
  dsimp only
  rcases h with h | h
  · rw [if_pos h]
  · rw [if_neg h]
    split <;> rfl

theorem releasePortReset_resetting (hheld : s.resetHeld = false) (hstate : (s.client c).port.state = .resetting) :
    releasePortReset c s = if s.scanStage = .finished then takesAll (readyClient c (setLine c false s))
      else (setLine c false s).setPort (.client c) { ((setLine c false s).client c).port with state := .starting } := by
  unfold releasePortReset
  dsimp only
  rw [if_neg (by rw [hheld]; exact Bool.false_ne_true), if_pos hstate]

/-! ## Boot binding -/

/-- What boot binding finds for a name (R149). -/
theorem bootCandidate_some {t : State} (hd : t.dir = s.dir) {name : Word32} {level : Nat} {e : Nat × Image}
    (hn : newest s name = some e) (hl : level ≤ e.2.level) : bootCandidate t name level = some e := by
  rw [bootCandidate, Resolution.newest_congr hd, hn, Option.filter_some, if_pos (decide_eq_true hl)]

theorem bootCandidate_none {t : State} (hd : t.dir = s.dir) {name : Word32} {level : Nat}
    (h : ∀ e, newest s name = some e → e.2.level < level) : bootCandidate t name level = none := by
  rw [bootCandidate, Resolution.newest_congr hd, Option.filter_eq_none_iff]
  exact fun e he => by rw [decide_eq_true_iff]; exact Nat.not_le.mpr (h e he)

theorem bootBind_blank (h : (s.client c).bootCopy = .blank) : bootBind c s = setLevel c 3 s := by
  simp only [bootBind, h, BootCopy.level]

theorem bootBind_invalid (h : (s.client c).bootCopy = .invalid) :
    bootBind c s = raise (.client c) .bootMissing (setLevel c 3 s) := by
  simp only [bootBind, h, BootCopy.level]

theorem bootBind_valid {primary fallback : Word32} {level : Nat} (h : (s.client c).bootCopy = .valid primary fallback level) :
    bootBind c s = ((bootCandidate (setLevel c level s) primary level).or
      (bootCandidate (setLevel c level s) fallback level)).elim (raise (.client c) .bootMissing (setLevel c level s))
        fun e => bindAperture c 0 e true (setLevel c level s) := by
  simp only [bootBind, h, BootCopy.level]
  cases (bootCandidate (setLevel c level s) primary level).or (bootCandidate (setLevel c level s) fallback level) <;> rfl

end

/-! ## The statements -/

/-- Settles O35. -/
theorem wpChangesNoRecordAndProtection : Obligations.WpChangesNoRecordAndProtection := ⟨fun _ _ => rfl, isProtected_iff⟩

/-- Settles O37. -/
theorem resetReleasedAndPowerOn : Obligations.ResetReleasedAndPowerOn := by
  refine fun s => ⟨fun h => congrArg Host.Outcome.next (releaseReset_eq h), fun h => ?_, _, _, rfl, rfl, rfl⟩
  exact congrArg Host.Outcome.next (if_neg (by rw [h]; exact Bool.false_ne_true))

/-- Settles O38: the values are those the state defaults to, and the invariants hold of empty units and tables. -/
theorem resetValuesAndInvariants : Obligations.ResetValuesAndInvariants := by
  have hlawful : State.reset.Lawful := (Kept.setHeld (v := false) (Kept.clearVolatile State.reset)).lawful
  refine ⟨⟨fun _ => rfl, fun _ => rfl, rfl, rfl, rfl, fun p => ?_, fun c => ?_, fun b => ?_, rfl, rfl, rfl, rfl, fun _ => rfl,
    rfl, rfl, rfl⟩, ⟨rfl, rfl, rfl, rfl, rfl, fun c => ?_⟩, ⟨Invariants.legal_unit_reset, ?_, fun c => ?_, ?_⟩, fun b => ?_,
    fun c => ?_, ⟨fun b => ?_, ?_⟩, hlawful.counted, hlawful⟩
  · cases p with
    | mgmt => exact ⟨rfl, rfl⟩
    | client c => cases c <;> exact ⟨rfl, rfl⟩
  · cases c <;> exact ⟨rfl, rfl, fun _ => rfl⟩
  · cases b <;> rfl
  · cases c <;> rfl
  · decide
  · cases c <;> exact ⟨Invariants.legal_unit_reset, fun _ => rfl, fun _ => rfl, fun _ => rfl⟩
  · exact fun h => Bool.noConfusion h
  · cases b <;> exact Invariants.legal_reset
  · cases c <;> decide
  · cases b <;> decide
  · decide

/-- Settles O39. -/
theorem portResetWhileStartingAndReleased : Obligations.PortResetWhileStartingAndReleased := by
  refine ⟨fun c s => ⟨fun h => ?_, fun hheld hstate => ?_⟩, fun c s => ⟨fun h => ?_, fun hheld hstate hscan => ?_,
    fun hheld hstate hscan => ?_⟩⟩
  · refine congrArg Host.Outcome.next ?_
    by_cases hheld : s.resetHeld = true
    · exact assertPortReset_held hheld
    · rw [assertPortReset_eq (eq_false_of_ne_true hheld), h.resolve_left hheld]
      rfl
  · refine congrArg Host.Outcome.next ((assertPortReset_eq hheld).trans ?_)
    rw [hstate]
    cases c <;> rfl
  · exact congrArg Host.Outcome.next (releasePortReset_line h)
  · refine congrArg Host.Outcome.next ((releasePortReset_resetting hheld hstate).trans ((if_neg hscan).trans ?_))
    cases c <;> rfl
  · exact congrArg Host.Outcome.next ((releasePortReset_resetting hheld hstate).trans (if_pos hscan))

/-- Settles O41. -/
theorem bootBindingFollowsTheBootEntry : Obligations.BootBindingFollowsTheBootEntry := by
  refine fun c s => ⟨bootBind_blank, bootBind_invalid, fun primary fallback level h => ⟨fun e hn hl => ?_, fun hp => ⟨fun e hn hl => ?_,
    fun hf => ?_⟩⟩⟩
  · rw [bootBind_valid h, bootCandidate_some (t := setLevel c level s) rfl hn hl]
    rfl
  · rw [bootBind_valid h, bootCandidate_none (t := setLevel c level s) rfl hp,
      bootCandidate_some (t := setLevel c level s) rfl hn hl]
    rfl
  · rw [bootBind_valid h, bootCandidate_none (t := setLevel c level s) rfl hp,
      bootCandidate_none (t := setLevel c level s) rfl hf]
    rfl

end Sys2Proof.Proofs.Pins

/-! # The settings store and RESET (R91, R141 to R148, R151): the statements O33, O34 and O36 -/

namespace Sys2Proof.Proofs.Store

open Sys2Proof Sys2Proof.Machine Sys2Proof.Proofs.Rules

section
variable {s t u : State} {o : SettingsOp} {work : SettingsWork} {a : Nat} {values : List Byte}

/-- A program of the boot area, with the address and the values of its target (R146, R148, R175). -/
def BootProgram (work : SettingsWork) (a : Nat) (values : List Byte) : Prop :=
  (∃ c : ClientId, work = .bootEntry c values ∧ a = 16 * c.pos) ∨ (work = .lockMark ∧ a = 64 ∧ values = [0x00])

/-- What each program of the boot area does to its target (R141). -/
theorem BootProgram.spec (h : BootProgram work a values) : work.isErase = false ∧ work.target = (a, values)
    ∧ (∀ v, work.refresh v = refreshBoot v)
    ∧ (∀ v, programSettings work v = { v with boot := Memory.writeN v.boot a values })
    ∧ ∀ v, cutSettings work v = { v with boot := Memory.writeN v.boot a (cutBytes v.boot a v.freeCount values)
                                         freeCount := v.freeCount + values.length } := by
  rcases h with ⟨c, rfl, rfl⟩ | ⟨rfl, rfl, rfl⟩ <;>
    exact ⟨rfl, rfl, fun _ => rfl, fun _ => rfl, fun _ => rfl⟩

/-- A failed or cut program of the boot area leaves every byte outside its target (R141). -/
theorem read_cutBoot (m : List Host.Cell) (a k : Nat) (values : List Byte) {x : Nat} (hx : x < a ∨ a + values.length ≤ x) :
    Memory.read (Memory.writeN m a (cutBytes m a k values)) x = Memory.read m x :=
  Memory.read_writeN_outside _ _ _ _ (by rwa [length_cutBytes])

/-! ## The ends of an operation -/

theorem runningOp_of (ho : s.op = some o) (hr : o.running = true) : runningOp s = some o := by
  rw [runningOp, ho, Option.filter_some, if_pos hr]

/-- The ends of a program operation (R141). -/
theorem settingsProgram_ends (ho : s.op = some o) (hr : o.running = true) (he : o.work.isErase = false) :
    settingsProgramDone true s = some (endSettings o.work .ok (programSettings o.work s))
    ∧ settingsProgramDone false s = some (endSettings o.work .programFailed (cutSettings o.work s))
    ∧ settingsProgramTimedOut s = some (endSettings o.work .programFailed (cutSettings o.work s)) := by
  simp only [settingsProgramDone, settingsProgramTimedOut, runningOp_of ho hr, he, if_true, Bool.false_eq_true, if_false, and_self]

/-- The ends of an erase operation (R141). -/
theorem settingsErase_ends (ho : s.op = some o) (hr : o.running = true) (he : o.work.isErase = true) :
    settingsEraseDone s = some (endSettings o.work .ok (eraseSettings o.work s))
    ∧ settingsEraseTimedOut s = some (endSettings o.work .eraseFailed (scrambleSettings o.work s)) := by
  simp only [settingsEraseDone, settingsEraseTimedOut, runningOp_of ho hr, he, if_true, and_self]

theorem next_concluded_some {v : Option State} (h : v = some t) :
    (Host.Outcome.next (concluded v s) : Result) = .next (conclude t) := by rw [h]; rfl

/-! ## The start of an operation -/

/-- What is due at a unit is read from the banks, their slots and the settings store. -/
theorem due_none_of (hs : due s = none) (hb : t.banks = s.banks)
    (hh : ∀ b, t.holdsSlot (.bank b) = s.holdsSlot (.bank b)) (ho : settingsStart t = none) (hc : t.claims = []) :
    due t = none := by
  obtain ⟨n1, -, -, n4, n5, n6, n7⟩ := due_eq_none.mp hs
  have hbank : ∀ b, t.bank b = s.bank b := fun b => by rw [State.bank, hb]; rfl
  simp only [start_eq_none, lodgeResume_eq_none, grant_eq_none, beginSuspend_eq_none, lodgeAccess_eq_none] at n1 n4 n5 n6 n7
  simp only [due_eq_none, start_eq_none, lodgeResume_eq_none, grant_eq_none, beginSuspend_eq_none, lodgeAccess_eq_none, hbank, hh,
    ho, grantSlot_eq_none, hc, true_or, true_and]
  exact ⟨n1, n4, n5, n6, n7⟩

/-- No bank starts where none did and the banks and their slots are the same. -/
theorem starts_none_of (hs : due s = none) (hb : t.banks = s.banks)
    (hh : ∀ b, t.holdsSlot (.bank b) = s.holdsSlot (.bank b)) : Four.all.findSome? (start t) = none := by
  rw [List.findSome?_eq_none_iff]
  intro b _
  have hbank : t.bank b = s.bank b := by rw [State.bank, hb]; rfl
  have hn := (due_eq_none.mp hs).1 b
  rw [start_eq_none] at hn ⊢
  rwa [hbank, hh]

/-- Settling when two things are due, one after the other, and nothing after them. -/
theorem settle_two (h : due s = some t) (h' : due t = some u) (hn : due u = none) : settle s = u := by
  rw [settle, show settleLimit = 998 + 1 + 1 from rfl, settleN_some h, settleN_some h', settleN_none hn]

/-- A slot given and released again (R89). -/
theorem releaseSlot_giveSlot {c : Claimant} (hf : s.slotFree = true) (hc : s.holdsSlot c = false) :
    releaseSlot c (giveSlot c s) = s := by
  obtain ⟨hA, hB⟩ : s.slotA ≠ some c ∧ s.slotB ≠ some c := by
    simpa only [State.holdsSlot, Bool.or_eq_false_iff, beq_eq_false_iff_ne] using hc
  by_cases h : s.slotA = none
  · have hback : releaseSlot c (giveSlot c s) = { s with slotA := none } := by simp [releaseSlot, giveSlot, h, hB]
    rw [hback, ← h]
  · have hback : releaseSlot c (giveSlot c s) = { s with slotB := none } := by simp [releaseSlot, giveSlot, h, hA]
    rw [hback, ← slotB_of_slotFree hf h]

/-- The state with a settings-store operation WAITING (R141). -/
def waits (work : SettingsWork) (s : State) : State := { s with op := some { work, running := false, elapsed := 0 } }

/-- The state with a settings-store operation RUNNING (R141). -/
def runs (work : SettingsWork) (s : State) : State := { s with op := some { work, running := true, elapsed := 0 } }

/-- What an operation does when it has its slot (R141). -/
def started (work : SettingsWork) (s : State) : State :=
  startSettings { work, running := false, elapsed := 0 } (giveSlot .settings (waits work s))

/-- A settings-store operation whose claim finds a free slot is started with it (R89, R90). -/
theorem settle_operation (h : s.StoreQuiet) (hf : s.slotFree = true) (hdue : due (started work s) = none) :
    settle (lodge .settings (waits work s)) = started work s := by
  have hclaims : s.claims = [] := claims_of_due h.due hf
  have hslots : ∀ b, (giveSlot .settings (waits work s)).holdsSlot (.bank b) = s.holdsSlot (.bank b) :=
    fun b => holdsSlot_giveSlot_ne (s := waits work s) (by simp) hf
  have hstarts : Four.all.findSome? (start (lodge .settings (waits work s))) = none := starts_none_of h.due rfl fun _ => rfl
  have hstore : settingsStart (lodge .settings (waits work s)) = none := settingsStart_eq_none.mpr fun _ _ _ => h.slot
  have hslot : (giveSlot .settings (waits work s)).holdsSlot .settings = true := holdsSlot_giveSlot_same _
  have hgiven : settingsStart (giveSlot .settings (waits work s)) = some (started work s) := by
    rw [settingsStart, giveSlot_op, waits]
    exact if_pos hslot
  refine settle_two (t := giveSlot .settings (waits work s)) ?_ ?_ hdue
  · rw [due, hstarts, hstore, grantSlot_single (s := waits work s) .settings hf hclaims]
    rfl
  · have hnone : Four.all.findSome? (start (giveSlot .settings (waits work s))) = none := starts_none_of h.due rfl hslots
    rw [due, hnone, hgiven]
    rfl

/-- The operation runs, and nothing is due (R141). -/
theorem settle_runs (h : s.StoreQuiet) (hf : s.slotFree = true) (hs : started work s = giveSlot .settings (runs work s)) :
    settle (lodge .settings (waits work s)) = giveSlot .settings (runs work s) := by
  rw [settle_operation h hf, hs]
  rw [hs]
  exact due_none_of h.due rfl (fun _ => holdsSlot_giveSlot_ne (s := runs work s) (by simp) hf)
    (settingsStart_eq_none.mpr fun o ho hr => by cases ho; cases hr) (claims_of_due (s := s) h.due hf)

/-- The operation ends at once, and nothing is due (R141). -/
theorem settle_ends (h : s.StoreQuiet) (hf : s.slotFree = true) {st : Status}
    (hs : started work s = endSettings work st (giveSlot .settings (waits work s))) :
    settle (lodge .settings (waits work s)) = respond .mgmt st [] (work.refresh s) := by
  have hop : ({ s with op := none } : State) = s := by rw [← h.op]
  have hback : releaseSlot .settings (giveSlot .settings { s with op := none }) = { s with op := none } :=
    releaseSlot_giveSlot (s := { s with op := none }) hf h.slot
  have hend : started work s = respond .mgmt st [] (work.refresh s) :=
    hs.trans (congrArg (fun v => respond .mgmt st [] (work.refresh v)) (hback.trans hop))
  rw [settle_operation h hf, hend]
  rw [hend]
  refine (due_congr ?_ ?_ ?_ ?_ ?_).mpr h.due <;> cases work <;> rfl

/-- A program of the boot area that has its slot reads and compares its target first (R141). -/
theorem started_program (h : BootProgram work a values) (s : State) : started work s =
    if allAcceptable (Memory.readN s.boot a values.length) values = false
    then endSettings work .notBlank (giveSlot .settings (waits work s))
    else if Memory.readN s.boot a values.length = values then endSettings work .ok (giveSlot .settings (waits work s))
    else giveSlot .settings (runs work s) := by
  simp only [← Bool.not_eq_true', ← beq_iff_eq (a := Memory.readN _ _ _)]
  rcases h with ⟨c, rfl, rfl⟩ | ⟨rfl, rfl, rfl⟩ <;> rfl

/-! ## RESET -/

/-- A byte is no target of a bank's program phase, and in no sector under erase there (R91). -/
def Untouched (a : Nat) (k : Bank) : Prop :=
  (∀ q f, k.activity = .programming q f → f ≠ .blankCheck →
    a < lineAddress q.sector q.line q.first ∨ lineAddress q.sector q.line q.first + q.values.length ≤ a)
  ∧ ∀ e, k.erase = some e → a < e.sector * 65536 ∨ (e.sector + 1) * 65536 ≤ a

theorem cutProgram_spec (b : BankId) (s : State) : ∃ mem k, cutProgram b s = { s with mem := mem, freeCount := k }
    ∧ ∀ a, Untouched a (s.bank b) → Memory.read mem a = Memory.read s.mem a := by
  unfold cutProgram
  split
  · rename_i q n hq
    obtain ⟨mem, k, heq, hout, -⟩ := Events.cutLine_spec q s
    exact ⟨mem, k, heq, fun a ha => hout a (ha.1 q _ hq (by simp))⟩
  · rename_i q hq
    obtain ⟨mem, k, heq, hout, -⟩ := Events.cutLine_spec q s
    exact ⟨mem, k, heq, fun a ha => hout a (ha.1 q _ hq (by simp))⟩
  · exact ⟨s.mem, s.freeCount, rfl, fun _ _ => rfl⟩

theorem cutErase_spec (b : BankId) (s : State) : ∃ mem k, cutErase b s = { s with mem := mem, freeCount := k }
    ∧ ∀ a, Untouched a (s.bank b) → Memory.read mem a = Memory.read s.mem a := by
  unfold cutErase
  split
  · rename_i e he
    obtain ⟨mem, k, heq, hout⟩ := Events.scrambleSector_outside e.sector s
    exact ⟨mem, k, heq, fun a ha => hout a (ha.2 e he)⟩
  · exact ⟨s.mem, s.freeCount, rfl, fun _ _ => rfl⟩

/-- What RESET cuts at the banks of a list (R91). -/
theorem cutBanks_spec (l : List BankId) (s : State) : ∃ mem k, l.foldl cutBank s = { s with mem := mem, freeCount := k }
    ∧ ∀ a, (∀ b, Untouched a (s.bank b)) → Memory.read mem a = Memory.read s.mem a := by
  induction l generalizing s with
  | nil => exact ⟨s.mem, s.freeCount, rfl, fun _ _ => rfl⟩
  | cons b l ih =>
    obtain ⟨m1, k1, h1, hout1⟩ := cutProgram_spec b s
    obtain ⟨m2, k2, h2, hout2⟩ := cutErase_spec b { s with mem := m1, freeCount := k1 }
    obtain ⟨m3, k3, h3, hout3⟩ := ih { s with mem := m2, freeCount := k2 }
    refine ⟨m3, k3, ?_, fun a ha => (hout3 a ha).trans ((hout2 a (ha b)).trans (hout1 a (ha b)))⟩
    rw [List.foldl_cons, cutBank, h1, h2]
    exact h3

/-- What RESET does to the settings store while an operation runs (R141). -/
def cutWork (work : SettingsWork) (s : State) : State :=
  if work.isErase then scrambleSettings work s else cutSettings work s

theorem cutStore_running (ho : s.op = some o) (hr : o.running = true) : cutStore s = cutWork o.work s := by
  simp only [cutStore, ho, hr, if_true, cutWork]

theorem storePowered_iff (s : State) : storePowered s = true ↔ ∃ o, s.op = some o ∧ o.running = true := by
  unfold storePowered
  cases s.op <;> simp

theorem cutStore_idle (h : storePowered s = false) : cutStore s = s := by
  unfold storePowered at h
  unfold cutStore
  cases ho : s.op with
  | none => rfl
  | some o =>
    rw [ho] at h
    exact if_neg (by rw [show o.running = false from h]; exact Bool.false_ne_true)

theorem cutWork_eq (work : SettingsWork) (s : State) : cutWork work s =
    { s with row := (cutWork work s).row, boot := (cutWork work s).boot, freeCount := (cutWork work s).freeCount } := by
  cases work <;> rfl

theorem cutStore_eq (s : State) : cutStore s =
    { s with row := (cutStore s).row, boot := (cutStore s).boot, freeCount := (cutStore s).freeCount } := by
  cases hp : storePowered s with
  | false => rw [cutStore_idle hp]
  | true =>
    obtain ⟨o, ho, hr⟩ := (storePowered_iff s).mp hp
    rw [cutStore_running ho hr]
    exact cutWork_eq ..

/-- A program of the row that is cut changes its own bit at most, and sets none (R78, R141). -/
theorem cutWork_protectBit (g : Nat) (s : State) : (cutWork (.protectBit g) s).boot = s.boot
    ∧ (∀ h, h ≠ g → (cutWork (.protectBit g) s).row.getLsbD h = s.row.getLsbD h)
    ∧ (s.row.getLsbD g = false → (cutWork (.protectBit g) s).row.getLsbD g = false) :=
  ⟨rfl, fun h hg => (spares_cutSettings (.protectBit g) s).row h (by simp [SettingsWork.rowBit, hg]),
    (spares_cutSettings (.protectBit g) s).cleared (by simp) g⟩

/-- A program of the boot area that is cut changes its target bytes at most (R141). -/
theorem cutWork_program (h : BootProgram work a values) (s : State) : (cutWork work s).row = s.row
    ∧ ∀ x, x < a ∨ a + values.length ≤ x → Memory.read (cutWork work s).boot x = Memory.read s.boot x := by
  obtain ⟨he, -, -, -, hcut⟩ := h.spec
  have heq : cutWork work s = cutSettings work s := if_neg (by rw [he]; exact Bool.false_ne_true)
  rw [heq, hcut]
  exact ⟨rfl, fun x hx => read_cutBoot _ _ _ _ hx⟩

/-- An erase of the boot area that is cut changes its unit at most (R141). -/
theorem cutWork_eraseBoot (s : State) : (cutWork .eraseBoot s).row = s.row
    ∧ ∀ x, 128 ≤ x → Memory.read (cutWork .eraseBoot s).boot x = Memory.read s.boot x :=
  ⟨rfl, fun x hx => (spares_scrambleSettings .eraseBoot s).boot x (by simpa [SettingsWork.bootByte] using hx)⟩

end

/-! ## The statements -/

/-- Settles O33: the operation is given the free slot, starts on it, and runs or ends. -/
theorem settingsOperationStartsOnAFreeSlot : Obligations.SettingsOperationStartsOnAFreeSlot := by
  refine fun work s h hf => ⟨?_, ?_, ?_, fun a values old ht hold => ?_⟩
  · rintro (rfl | rfl)
    · exact settle_runs h hf rfl
    · exact settle_runs h hf rfl
  · rintro g rfl hbit
    exact settle_runs h hf (if_pos hbit)
  · rintro g rfl hbit
    exact settle_ends h hf (if_neg (ne_true_of_eq_false hbit))
  · have ht : BootProgram work a values := ht
    subst hold
    have hrefresh := ht.spec.2.2.1 s
    refine ⟨fun hbad => ?_, fun heq => ?_, fun hgood hne => ?_⟩
    · rw [← hrefresh]
      exact settle_ends h hf ((started_program ht s).trans (if_pos ((Events.allAcceptable_eq_false_iff ..).mpr hbad)))
    · have hok : allAcceptable (Memory.readN s.boot a values.length) values = true := by
        rw [heq]
        exact Events.allAcceptable_self values
      rw [← hrefresh]
      exact settle_ends h hf ((started_program ht s).trans ((if_neg (by rw [hok]; simp)).trans (if_pos heq)))
    · have hok := (Events.allAcceptable_iff ..).mpr hgood
      exact settle_runs h hf ((started_program ht s).trans ((if_neg (by rw [hok]; simp)).trans (if_neg hne)))

/-- Settles O34: the ends of a program and of an erase, each with what its work does to the store. -/
theorem settingsOperationEnds : Obligations.SettingsOperationEnds := by
  refine ⟨fun o s ho hr => ⟨fun g hg => ?_, fun a values ht => ?_⟩, fun o s ho hr hw => ⟨fun hrow => ?_, fun hboot => ?_⟩⟩
  · obtain ⟨hdone, hfailed, htimeout⟩ := settingsProgram_ends ho hr (by rw [hg]; rfl)
    obtain ⟨-, hbits, hbit⟩ := cutWork_protectBit g s
    refine ⟨(next_concluded_some hdone).trans (by rw [hg]; rfl), _, s.freeCount + 1,
      (next_concluded_some hfailed).trans (by rw [hg]; rfl), ?_, hbits, hbit⟩
    exact (next_concluded_some htimeout).trans (next_concluded_some hfailed).symm
  · have ht : BootProgram o.work a values := ht
    obtain ⟨he, -, -, hprogram, hcut⟩ := ht.spec
    obtain ⟨hdone, hfailed, htimeout⟩ := settingsProgram_ends ho hr he
    rw [hprogram] at hdone
    rw [hcut] at hfailed htimeout
    exact ⟨next_concluded_some hdone, _, _, next_concluded_some hfailed,
      (next_concluded_some htimeout).trans (next_concluded_some hfailed).symm, fun x hx => read_cutBoot _ _ _ _ hx⟩
  · obtain ⟨hdone, htimeout⟩ := settingsErase_ends ho hr (by rw [hrow]; rfl)
    exact ⟨(next_concluded_some hdone).trans (by rw [hrow]; rfl), freeRow s.freeCount, s.freeCount + 8,
      (next_concluded_some htimeout).trans (by rw [hrow]; rfl)⟩
  · obtain ⟨hdone, htimeout⟩ := settingsErase_ends ho hr (by rw [hboot]; rfl)
    refine ⟨⟨Memory.eraseN s.boot 0 128, (next_concluded_some hdone).trans (by rw [hboot]; rfl), fun x hx => ?_, fun x hx => ?_⟩,
      scrambleN s.boot 0 128 s.freeCount, s.freeCount + 128, (next_concluded_some htimeout).trans (by rw [hboot]; rfl),
      (cutWork_eraseBoot s).2⟩
    · rw [Memory.read_eraseN hw, if_pos ⟨Nat.zero_le x, by omega⟩]
    · rw [Memory.read_eraseN hw, if_neg (by omega)]

/-- Settles O36: the banks' work is cut in the array, then the operation in the settings store, and the rest is cleared. -/
theorem resetAssertedClearsTheVolatileState : Obligations.ResetAssertedClearsTheVolatileState := by
  intro s
  obtain ⟨mem, k, hbanks, hmem⟩ := cutBanks_spec Four.all s
  refine ⟨mem, (cutStore { s with mem := mem, freeCount := k }).row, (cutStore { s with mem := mem, freeCount := k }).boot,
    (cutStore { s with mem := mem, freeCount := k }).freeCount, ?_, fun h => ?_, fun o ho hr => ⟨?_, ?_, fun a values ht => ?_, ?_⟩,
    fun a hp he => hmem a fun b => ⟨hp b, he b⟩⟩
  · refine congrArg Host.Outcome.next ?_
    rw [assertReset, hbanks, cutStore_eq]
    rfl
  · rw [cutStore_idle (s := { s with mem := mem, freeCount := k }) h]
    exact ⟨rfl, rfl⟩
  · rintro g hg
    rw [cutStore_running (s := { s with mem := mem, freeCount := k }) ho hr, hg]
    exact cutWork_protectBit g _
  · intro hrow
    rw [cutStore_running (s := { s with mem := mem, freeCount := k }) ho hr, hrow]
    rfl
  · rw [cutStore_running (s := { s with mem := mem, freeCount := k }) ho hr]
    exact cutWork_program ht _
  · intro hboot
    rw [cutStore_running (s := { s with mem := mem, freeCount := k }) ho hr, hboot]
    exact cutWork_eraseBoot _

end Sys2Proof.Proofs.Store

/-! # The passing of time (logs 2 and 3; R78, R81, R82, R84, R86, R141): the statement O2 -/

namespace Sys2Proof.Proofs.Time

open Sys2Proof Sys2Proof.Machine Sys2Proof.Proofs.Rules

section
variable {s : State} {b : BankId} {e : EraseContext} {q : ProgramSequence} {n : Nat}

/-! ## One microsecond -/

theorem bank_later (s : State) (b : BankId) : (later s).bank b = (s.bank b).later := Quad.get_map ..

theorem EraseContext.later_running (hs : e.suspended = false) :
    e.later = { e with runningTime := e.runningTime + 1, lockout := e.lockout - 1 } :=
  if_neg (by rw [hs]; exact Bool.false_ne_true)

theorem Bank.later_erasing {k : Bank} (ha : k.activity = .erasing) (he : k.erase = some e) (hs : e.suspended = false) :
    k.later = { k with erase := some { e with runningTime := e.runningTime + 1, lockout := e.lockout - 1 } } := by
  rw [← EraseContext.later_running hs, Bank.later, ha, he]
  rfl

theorem Bank.later_suspending {k : Bank} (ha : k.activity = .suspending n) (he : k.erase = some e) (hs : e.suspended = false) :
    k.later = { k with activity := .suspending (n + 1)
                       erase := some { e with runningTime := e.runningTime + 1, lockout := e.lockout - 1 } } := by
  rw [← EraseContext.later_running hs, Bank.later, ha, he]
  rfl

theorem Bank.later_programming {k : Bank} (ha : k.activity = .programming q (.program n)) :
    k.later = { k with activity := .programming q (.program (n + 1)) } := by
  rw [Bank.later, ha]

/-- A bank that runs no limit is not moved by time. -/
theorem Bank.later_untimed {k : Bank} (he : k.activity ≠ .erasing) (hs : ∀ n, k.activity ≠ .suspending n)
    (hp : ∀ q n, k.activity ≠ .programming q (.program n)) : k.later = k := by
  unfold Bank.later
  split
  · exact absurd ‹_› (hp _ _)
  · exact absurd ‹_› he
  · exact absurd ‹_› (hs _)
  · rfl

/-! ## The limits -/

theorem bankLimit_programming (ha : (s.bank b).activity = .programming q (.program n)) :
    bankLimit s b = if 2000 ≤ n then programEnded q.issuer .failed (quitBank b (cutLine q s)) else s := by
  rw [bankLimit, ha, Events.programTimedOut_eq ha]
  rfl

theorem bankLimit_erasing (ha : (s.bank b).activity = .erasing) (he : (s.bank b).erase = some e) (hs : e.suspended = false) :
    bankLimit s b = if 2000000 ≤ e.runningTime then (eraseTimesOut b s).getD s else s := by
  rw [bankLimit, Invariants.runningErase_of (Or.inl ha) he hs, ha]

theorem bankLimit_suspending (ha : (s.bank b).activity = .suspending n) (he : (s.bank b).erase = some e)
    (hs : e.suspended = false) : bankLimit s b =
      if 2000000 ≤ e.runningTime then (eraseTimesOut b s).getD s
      else if 20 ≤ n then releaseSlot (.bank b) (s.setBank b { s.bank b with
        activity := .idle, openLine := none, erase := some { e with suspended := true, served := false } })
      else s := by
  rw [bankLimit, Invariants.runningErase_of (Or.inr ⟨n, ha⟩) he hs, ha, Events.suspendDone_eq ha he hs]
  rfl

theorem bankLimit_untimed (he : (s.bank b).activity ≠ .erasing) (hs : ∀ n, (s.bank b).activity ≠ .suspending n)
    (hp : ∀ q n, (s.bank b).activity ≠ .programming q (.program n)) : bankLimit s b = s := by
  unfold bankLimit
  split
  · exact absurd ‹_› (hp _ _)
  · exact absurd ‹_› he
  · exact absurd ‹_› (hs _)
  · rfl

/-- Where no settings-store operation runs, its limit is not reached. -/
theorem storeLimit_idle (hp : storePowered s = false) : storeLimit s = s := by
  have hrun : runningOp s = none := by
    unfold storePowered at hp
    unfold runningOp
    cases ho : s.op with
    | none => rfl
    | some o =>
      rw [ho] at hp
      rw [Option.filter_some, if_neg (ne_true_of_eq_false hp)]
  unfold storeLimit
  rw [settingsProgramTimedOut, settingsEraseTimedOut, hrun]
  cases s.op with
  | none => rfl
  | some o => simp only [Option.getD_none, ite_self]

/-- The settings-store operation that reaches its limit is cut (R141). -/
theorem storeLimit_eq {o : SettingsOp} (ho : s.op = some o) (hr : o.running = true) : storeLimit s =
    if (if o.work.isErase then 400000 else 2000) ≤ o.elapsed
    then endSettings o.work (if o.work.isErase then .eraseFailed else .programFailed) (Store.cutWork o.work s) else s := by
  rw [storeLimit, ho, Store.cutWork]
  dsimp only
  cases he : o.work.isErase with
  | false => rw [(Store.settingsProgram_ends ho hr he).2.2]; rfl
  | true => rw [(Store.settingsErase_ends ho hr he).2]; rfl

theorem spares_cutWork (work : SettingsWork) (s : State) : work.Spares s (Store.cutWork work s) := by
  unfold Store.cutWork
  split
  · exact spares_scrambleSettings work s
  · exact spares_cutSettings work s

end

/-! ## The statements -/

/-- Settles O2: what a microsecond changes at a bank and at the store, and then the limit of each. -/
theorem stepOnAnEmptyQueueLetsTimePass : Obligations.StepOnAnEmptyQueueLetsTimePass := by
  refine ⟨fun s hpend => ?_, fun b s => ⟨fun q n ha => ?_, fun e ha he hs htime => ?_, fun e he hs htime => ?_,
    bankLimit_untimed⟩, fun s => ⟨fun hp => ?_, fun o ho hr => ?_⟩⟩
  · have hstep : step s = .next (tick s) := by rw [step, hpend]
    refine ⟨fun hr => hstep.trans (congrArg _ (if_pos hr)), fun hr => ⟨later s,
      hstep.trans (congrArg _ (if_neg (by rw [hr]; exact Bool.false_ne_true))), rfl, ?_, ?_, ?_, ?_, ?_, ?_⟩⟩
    · exact fun b e ha he hs => (bank_later s b).trans (Bank.later_erasing ha he hs)
    · exact fun b e n ha he hs => (bank_later s b).trans (Bank.later_suspending ha he hs)
    · exact fun b q n ha => (bank_later s b).trans (Bank.later_programming ha)
    · exact fun b he hs hp => (bank_later s b).trans (Bank.later_untimed he hs hp)
    · exact fun o ho => congrArg (Option.map SettingsOp.later) ho
    · exact fun ho => congrArg (Option.map SettingsOp.later) ho
  · obtain ⟨mem, k, hcut, hout, -⟩ := Events.cutLine_spec q s
    refine ⟨fun hn => (bankLimit_programming ha).trans (if_neg (by omega)), fun hn => ⟨mem, k, ?_, ?_⟩⟩
    · rw [bankLimit_programming ha, if_pos hn, hcut]
    · exact hout
  · obtain ⟨mem, k, hend, hout⟩ := Events.eraseTimesOut_eq (Invariants.runningErase_of ha he hs)
    refine ⟨mem, k, ?_, hout⟩
    rcases ha with ha | ⟨n, ha⟩
    · rw [bankLimit_erasing ha he hs, if_pos htime, hend]; rfl
    · rw [bankLimit_suspending ha he hs, if_pos htime, hend]; rfl
  · have hlow : ¬ 2000000 ≤ e.runningTime := Nat.not_le.mpr htime
    refine ⟨fun ha => (bankLimit_erasing ha he hs).trans (if_neg hlow), fun n ha => ?_⟩
    rw [bankLimit_suspending ha he hs, if_neg hlow]
    exact ⟨fun hn => if_neg (by omega), fun hn => if_pos hn⟩
  · exact storeLimit_idle hp
  · have hlimit := storeLimit_eq ho hr
    obtain ⟨hrow, hboot, hcleared⟩ := spares_cutWork o.work s
    refine ⟨fun hlow => hlimit.trans (if_neg (Nat.not_le.mpr hlow)), fun hhigh => ⟨(Store.cutWork o.work s).row,
      (Store.cutWork o.work s).boot, (Store.cutWork o.work s).freeCount, ?_, hrow, hboot, hcleared⟩⟩
    rw [hlimit, if_pos hhigh, Store.cutWork_eq]
    rfl

end Sys2Proof.Proofs.Time

/-! # The grant rule and the slots (R53, R54, R71 to R74, R86, R89, R96; logs 10, 11, 13): the statement O53 -/

namespace Sys2Proof.Proofs.Grants

open Sys2Proof Sys2Proof.Machine Sys2Proof.Proofs.Rules

section
variable {s t : State} {b : BankId} {a : ReadAccess} {e : EraseContext} {n sector line credit : Nat} {sel : Access → Bool}

/-! ## Reads and verify reads -/

/-- The completion of a read access that was not dropped (R54). -/
theorem completeRead_of_live (ha : a.dropped = false) (s : State) : completeRead a s =
    respond a.port .ok (Memory.readN s.mem (a.sector * 65536 + a.line * 256 + a.first) a.length)
      (setReadMark a.port false (match a.entry with
        | some i => lowerReads i (if a.request = .fetch then s.updImage i fun im => { im with accessed := true } else s)
        | none => s)) := by
  have hcount : countCompletion a s = match a.entry with
      | some i => lowerReads i (if a.request = .fetch then s.updImage i fun im => { im with accessed := true } else s)
      | none => s := by
    rw [Events.countCompletion_eq, ha]
    cases a.entry with
    | none => rfl
    | some i => simp only [and_true]
  rw [completeRead, hcount, if_neg (by rw [ha]; exact Bool.false_ne_true)]
  rfl

theorem lineBytesAt_eq (s : State) (sector line : Nat) :
    lineBytesAt s sector line = Memory.readN s.mem (sector * 65536 + line * 256) 256 := by
  rw [lineBytesAt, Events.lineAddress_line]

/-- The credit of a media access rises by 1, up to 8 (R73). -/
theorem credited_eq : Access.credited = fun x => match x with
    | .media m credit => .media m (min 8 (credit + 1))
    | .read r => .read r := by
  funext x
  cases x <;> rfl

/-- The bank at which a read access has been granted: the list, the credits and the erase context's mark (R71, R73, R86). -/
def readGranted (b : BankId) (s : State) : State :=
  let rest := (s.bank b).waiting.eraseP Access.isRead
  s.setBank b { s.bank b with
    waiting := if (s.bank b).erase = none then rest.map Access.credited else rest
    erase := (s.bank b).erase.map fun e => { e with served := true } }

theorem grantRead_eq (b : BankId) (a : ReadAccess) (s : State) : grantRead b a s =
    if (s.bank b).openLine = some (a.sector, a.line) then completeRead a (readGranted b s)
    else (readGranted b s).setBank b { (readGranted b s).bank b with activity := .sensing (.read a) } := by
  simp only [grantRead, readGranted, Option.isNone_iff_eq_none, bank_setBank_same, setBank_setBank]

/-! ## The accesses a list holds -/

theorem any_of_find {l : List Access} {x : Access} (h : l.find? sel = some x) : l.any sel = true :=
  List.any_eq_true.mpr ⟨x, List.mem_of_find?_eq_some h, List.find?_some h⟩

theorem grantVerifyOf_some (h : (s.bank b).waiting.find? sel = some (.media (.verifyRead n sector line) credit)) :
    grantVerifyOf b sel s = some (grantVerify b sel n sector line s) := by
  rw [grantVerifyOf, h]

theorem grantReadOf_some (h : (s.bank b).waiting.find? Access.isRead = some (.read a)) :
    grantReadOf b s = some (grantRead b a s) := by
  rw [grantReadOf, h]

/-! ## The cases of the rule -/

theorem grant_busy (hf : (s.bank b).isFree = false) : grant s b = none := grant_eq_none.mpr (Or.inl hf)

/-- A bank with an erase context grants reads alone (R72). -/
theorem grant_erase (hf : (s.bank b).isFree = true) (he : (s.bank b).erase.isSome = true) : grant s b = grantReadOf b s := by
  rw [grant, hf, he]
  rfl

/-- What a free bank without an erase context grants (R71, R73). -/
theorem grant_open (hf : (s.bank b).isFree = true) (he : (s.bank b).erase = none) : grant s b =
    if (s.bank b).waiting.any Access.isDueVerify then grantVerifyOf b Access.isDueVerify s
    else if (s.bank b).waiting.any Access.isDueSupplyBound && !s.holdsSlot (.bank b) then none
    else if (s.bank b).waiting.any Access.isRead then grantReadOf b s
    else grantVerifyOf b Access.isVerify s := by
  rw [grant, hf, he]
  rfl

/-! ## The slots -/

theorem slotFree_eq_false (hA : s.slotA ≠ none) (hB : s.slotB ≠ none) : s.slotFree = false := by
  unfold State.slotFree
  rw [Option.isNone_eq_false_iff.mpr (Option.isSome_iff_ne_none.mpr hA),
    Option.isNone_eq_false_iff.mpr (Option.isSome_iff_ne_none.mpr hB)]
  rfl

/-- The oldest claim is granted the first free slot (R89). -/
theorem grantSlot_cons {c : Claimant} {rest : List Claimant} (hc : s.claims = c :: rest) (hfree : s.slotA = none ∨ s.slotB = none) :
    grantSlot s = some (giveSlot c { s with claims := rest }) := by
  rw [grantSlot, hc, giveSlot]
  dsimp only
  by_cases hA : s.slotA = none
  · rw [if_pos hA, if_pos hA, if_pos hA]
  · rw [if_neg hA, if_pos (hfree.resolve_left hA), if_neg hA, if_neg hA]

/-! ## What is due -/

/-- The banks are asked in ascending order (log 11). -/
theorem findSome_first {f : BankId → Option State} (h : f b = some t) (hlow : ∀ d : BankId, d.pos < b.pos → f d = none) :
    Four.all.findSome? f = some t :=
  Arrivals.findSome?_least (key := Four.pos) (by decide) (by cases b <;> decide) h hlow

theorem findSome_none {f : BankId → Option State} (h : ∀ d, f d = none) : Four.all.findSome? f = none :=
  List.findSome?_eq_none_iff.mpr fun d _ => h d

end

/-! ## The statements -/

/-- Settles O53: the cases of the rule, the oldest claim, the two grants, and the order of what is due. -/
theorem grantRuleAndSlots : Obligations.GrantRuleAndSlots := by
  refine ⟨fun b s => ⟨grant_busy, fun hf he => ?_, fun hf he => ?_⟩, fun s => ⟨?_, ?_, ?_⟩, fun b a s ha => ?_,
    fun b sel n sector line s => ⟨fun hline => ?_, fun hline => ?_⟩, fun b s t => ⟨?_, ?_, ?_, ?_, ?_⟩, fun s t => ⟨rfl, ?_, ?_⟩⟩
  · have hopen := grant_open hf he
    refine ⟨fun n sector line credit hv => ?_, fun hv => ⟨fun hsupply hslot => ?_, fun hsupply => ⟨fun a hr => ?_,
      fun hr n sector line credit hv' => ?_⟩⟩⟩
    · exact (hopen.trans (if_pos (any_of_find hv))).trans (grantVerifyOf_some hv)
    all_goals replace hopen := hopen.trans (if_neg (ne_true_of_eq_false hv))
    · exact hopen.trans (if_pos (by rw [hslot]; exact (Bool.and_true _).trans hsupply))
    all_goals replace hopen := hopen.trans (if_neg fun h => ne_true_of_eq_false hsupply (Bool.and_eq_true_iff.mp h).1)
    · exact (hopen.trans (if_pos (any_of_find hr))).trans (grantReadOf_some hr)
    · exact (hopen.trans (if_neg (ne_true_of_eq_false hr))).trans (grantVerifyOf_some hv')
  · exact ⟨fun a hr => (grant_erase hf he).trans (grantReadOf_some hr),
      fun hr => (grant_erase hf he).trans (grantReadOf_eq_none.mpr hr)⟩
  · exact fun hc => grantSlot_eq_none.mpr (Or.inl hc)
  · exact fun hA hB => grantSlot_eq_none.mpr (Or.inr (slotFree_eq_false hA hB))
  · exact fun c rest hc hfree => grantSlot_cons hc hfree
  · have hwait : readGranted b s = s.setBank b { s.bank b with
        waiting := _, erase := (s.bank b).erase.map fun e => { e with served := true } } := rfl
    rw [credited_eq] at hwait
    exact ⟨fun hline => by rw [grantRead_eq, if_pos hline, completeRead_of_live ha, hwait] <;> rfl,
      fun hline => by rw [grantRead_eq, if_neg hline, hwait] <;> rfl⟩
  · rw [grantVerify, lineBytesAt_eq]
    exact if_pos hline
  · rw [grantVerify]
    exact if_neg hline
  · intro hf
    exact start_eq_none.mpr fun h => by rw [hf] at h; exact absurd h.1 Bool.false_ne_true
  · intro hh
    exact start_eq_none.mpr fun h => by rw [hh] at h; exact absurd h.2.1 Bool.false_ne_true
  · intro hstart hlow
    rw [due, findSome_first hstart hlow]
    rfl
  · intro hstart hstore hslot
    rw [due, findSome_none hstart, hstore, hslot]
    rfl
  · intro hstart hstore hslot hresume hgrant hlow
    rw [due, findSome_none hstart, hstore, hslot, findSome_none hresume, findSome_first hgrant hlow]
    rfl
  · exact fun hn => settleN_none hn _
  · exact fun n h => settleN_some h n

end Sys2Proof.Proofs.Grants

/-! # An access joins a bank (R68, R71 to R76, R80, R83, R88, R89): the statements O22 and O31 -/

namespace Sys2Proof.Proofs.Joins

open Sys2Proof Sys2Proof.Machine Sys2Proof.Proofs.Rules

section
variable {s t : State} {b : BankId} {k : Bank} {a : ReadAccess} {m : MediaAccess} {q : ProgramSequence}
  {n sector credit : Nat}

/-! ## What is due where one bank has changed -/

theorem due_setBank (hs : due s = none) (b : BankId) (k : Bank) : due (s.setBank b k) = (start (s.setBank b k) b).or
    ((lodgeResume (s.setBank b k) b).or ((grant (s.setBank b k) b).or
      ((beginSuspend (s.setBank b k) b).or (lodgeAccess (s.setBank b k) b)))) := by
  have hslot : grantSlot (s.setBank b k) = none := 
    grantSlot_eq_none.mpr (grantSlot_eq_none (s := s).mp (due_eq_none.mp hs).2.2.1)
  rw [due_of_bank b hs (fun _ h => bank_setBank_ne s k h) (fun _ _ => rfl) rfl, hslot, Option.none_or]

theorem start_busy (hf : (s.bank b).isFree = false) : start s b = none :=
  start_eq_none.mpr fun h => ne_true_of_eq_false hf h.1

theorem start_unclaimed (hc : (s.bank b).claim = .none) : start s b = none :=
  start_eq_none.mpr fun h => by simp [hc] at h

theorem lodgeResume_busy (hf : (s.bank b).isFree = false) : lodgeResume s b = none :=
  lodgeResume_eq_none.mpr fun e _ => by simp only [hf, Bool.and_false, Bool.false_and]

theorem lodgeResume_clear (he : (s.bank b).erase = none) : lodgeResume s b = none :=
  lodgeResume_eq_none.mpr fun e h => by rw [he] at h; cases h

theorem beginSuspend_of_ne (ha : (s.bank b).activity ≠ .erasing) : beginSuspend s b = none :=
  beginSuspend_eq_none.mpr fun _ h => absurd h ha

theorem beginSuspend_free (hf : (s.bank b).isFree = true) : beginSuspend s b = none :=
  beginSuspend_of_ne fun ha => by rw [Bank.isFree, ha] at hf; cases hf

/-- A suspend begins when the lockout is over and a read access waits (R83). -/
theorem beginSuspend_some {e : EraseContext} (ha : (s.bank b).activity = .erasing) (he : (s.bank b).erase = some e)
    (hl : e.lockout = 0) (hr : (s.bank b).waiting.any Access.isRead = true) :
    beginSuspend s b = some (s.setBank b { s.bank b with activity := .suspending 0 }) := by
  simp [beginSuspend, ha, he, hl, hr]

theorem beginSuspend_locked {e : EraseContext} (he : (s.bank b).erase = some e) (hl : e.lockout ≠ 0) :
    beginSuspend s b = none :=
  beginSuspend_eq_none.mpr fun e' _ he' => by
    obtain rfl : e = e' := Option.some.inj (he.symm.trans he')
    rw [decide_eq_false hl, Bool.false_and]

/-- At a bank that is not free, with no claim to lodge, only a suspend can be due. -/
theorem due_busy (hs : due s = none) (hf : k.isFree = false) (hlodge : lodgeAccess (s.setBank b k) b = none) :
    due (s.setBank b k) = beginSuspend (s.setBank b k) b := by
  have hf' : ((s.setBank b k).bank b).isFree = false := by rw [bank_setBank_same, hf]
  rw [due_setBank hs, start_busy hf', lodgeResume_busy hf', grant_eq_none.mpr (Or.inl hf'), hlodge]
  simp only [Option.none_or, Option.or_none]

/-- A read access more gives the bank no claim to lodge. -/
theorem lodgeAccess_read (h : lodgeAccess s b = none) {x : Activity} :
    lodgeAccess (s.setBank b { s.bank b with waiting := (s.bank b).waiting ++ [.read a], activity := x }) b = none := by
  rw [lodgeAccess_eq_none] at h ⊢
  rw [bank_setBank_same]
  simpa [Access.isSupplyBound] using h

/-! ## A read access joins -/

/-- The part as it is when nothing is due at it. -/
theorem settle_none (h : due s = none) : settle s = s := settleN_none h _

theorem due_setPort (p : Port) (v : PortUnit) (s : State) : due (s.setPort p v) = none ↔ due s = none := by
  refine due_congr ?_ ?_ ?_ ?_ ?_ <;> simp

theorem due_updImage (i : Nat) (f : Image → Image) (s : State) : due (s.updImage i f) = none ↔ due s = none := by
  refine due_congr ?_ ?_ ?_ ?_ ?_ <;> simp

/-- The completion of a read access makes nothing due (R54). -/
theorem due_completeRead (a : ReadAccess) (s : State) : due (completeRead a s) = none ↔ due s = none := by
  have hcount : due (countCompletion a s) = none ↔ due s = none := by
    rw [Events.countCompletion_eq]
    cases a.entry with
    | none => rfl
    | some i =>
      refine (due_updImage ..).trans ?_
      split
      · exact due_updImage ..
      · rfl
  unfold completeRead
  split
  · exact (due_setPort ..).trans hcount
  · exact ((due_setPort ..).trans (due_setPort ..)).trans hcount

/-! ## A quiet bank -/

/-- A quiet bank that an access has joined. -/
theorem join_quiet (h : s.Quiet b) (x : Access) : join b x s = s.setBank b { s.bank b with waiting := [x] } := by
  rw [join, h.waiting, List.nil_append]

theorem bank_join_quiet (h : s.Quiet b) (x : Access) : (join b x s).bank b = { s.bank b with waiting := [x] } := by
  rw [join_quiet h, bank_setBank_same]

/-- What is due where an access has joined a quiet bank: a grant, or the lodging of a claim. -/
theorem due_join_quiet (h : s.Quiet b) (x : Access) :
    due (join b x s) = (grant (join b x s) b).or (lodgeAccess (join b x s) b) := by
  have hstart : start (join b x s) b = none := start_unclaimed (by rw [bank_join_quiet h]; exact h.claim)
  have hresume : lodgeResume (join b x s) b = none := lodgeResume_clear (by rw [bank_join_quiet h]; exact h.erase)
  have hsuspend : beginSuspend (join b x s) b = none := beginSuspend_free (by rw [bank_join_quiet h]; exact h.free)
  rw [join_quiet h] at hstart hresume hsuspend ⊢
  rw [due_setBank h.due, hstart, hresume, hsuspend]
  simp only [Option.none_or]

/-- The only access of a bank leaves it as it was before it joined. -/
theorem readGranted_join (h : s.Quiet b) (a : ReadAccess) : Grants.readGranted b (join b (.read a) s) = s := by
  have hbank : ∀ k : Bank, k.erase = none → k.waiting = [] → { k with waiting := [], erase := none } = k := by
    rintro ⟨⟩ rfl rfl
    rfl
  unfold Grants.readGranted
  rw [bank_join_quiet h, h.erase, join_quiet h]
  dsimp only
  rw [if_pos rfl, setBank_setBank]
  exact (congrArg (s.setBank b) (hbank _ h.erase h.waiting)).trans (setBank_bank s b)

/-- A quiet bank grants the read access that joins it, and is then as it was before (R71, R73). -/
theorem due_join_read (h : s.Quiet b) (a : ReadAccess) : due (join b (.read a) s) = some
    (if (s.bank b).openLine = some (a.sector, a.line) then completeRead a s
      else s.setBank b { s.bank b with activity := .sensing (.read a) }) := by
  have hgrant : grant (join b (.read a) s) b = some (grantRead b a (join b (.read a) s)) := by
    rw [Grants.grant_open (by rw [bank_join_quiet h]; exact h.free) (by rw [bank_join_quiet h]; exact h.erase),
      bank_join_quiet h]
    exact Grants.grantReadOf_some (by rw [bank_join_quiet h]; rfl)
  rw [due_join_quiet h, hgrant, Grants.grantRead_eq, readGranted_join h, bank_join_quiet h]
  rfl

/-- A read access joins a quiet bank (R71, R73). -/
theorem settle_join_read (h : s.Quiet b) (a : ReadAccess) : settle (join b (.read a) s) =
    if (s.bank b).openLine = some (a.sector, a.line) then completeRead a s
    else s.setBank b { s.bank b with activity := .sensing (.read a) } := by
  refine settle_one (due_join_read h a) ?_ rfl
  split
  · exact (due_completeRead a s).mpr h.due
  · rw [due_busy h.due rfl]
    · exact beginSuspend_of_ne (by rw [bank_setBank_same]; exact Activity.noConfusion)
    · rw [lodgeAccess_eq_none, bank_setBank_same]
      simp [h.waiting]

/-! ## A read access joins a bank that is not free -/

/-- Where a read access joins a bank that is not free, only a suspend can be due (R83). -/
theorem due_join_busy (hs : due s = none) (hf : (s.bank b).isFree = false) (a : ReadAccess) :
    due (join b (.read a) s) = beginSuspend (join b (.read a) s) b :=
  due_busy hs hf (lodgeAccess_read ((due_eq_none.mp hs).2.2.2.2.2.2 b))

/-- The read access waits, and nothing more is due. -/
theorem settle_join_waits (hs : due s = none) (hf : (s.bank b).isFree = false) (a : ReadAccess)
    (h : beginSuspend (join b (.read a) s) b = none) : settle (join b (.read a) s) = join b (.read a) s :=
  settle_none ((due_join_busy hs hf a).trans h)

/-- The read access makes the running erase suspend (R83). -/
theorem settle_join_suspends {e : EraseContext} (hs : due s = none) (ha : (s.bank b).activity = .erasing)
    (he : (s.bank b).erase = some e) (hl : e.lockout = 0) (a : ReadAccess) : settle (join b (.read a) s) = s.setBank b
      { s.bank b with waiting := (s.bank b).waiting ++ [.read a], activity := .suspending 0 } := by
  have hf : (s.bank b).isFree = false := by rw [Bank.isFree, ha]
  have hbank : (join b (.read a) s).bank b = { s.bank b with waiting := (s.bank b).waiting ++ [.read a] } :=
    bank_setBank_same ..
  have hbegin := beginSuspend_some (s := join b (.read a) s) (b := b) (by rw [hbank]; exact ha) (by rw [hbank]; exact he) hl
    (by rw [hbank]; simp [Access.isRead])
  rw [hbank, join, setBank_setBank, ← join] at hbegin
  refine settle_one ((due_join_busy hs hf a).trans hbegin) ?_ rfl
  rw [due_busy hs rfl (lodgeAccess_read ((due_eq_none.mp hs).2.2.2.2.2.2 b))]
  exact beginSuspend_of_ne (by rw [bank_setBank_same]; exact Activity.noConfusion)

/-! ## A supply-bound access joins a quiet bank -/

/-- The bank that a media access has joined, with its claim lodged (R88). -/
def claimed (b : BankId) (m : MediaAccess) (s : State) : State :=
  s.setBank b { s.bank b with waiting := [.media m 0], claim := .access }

/-- A bank lodges its claim for a supply-bound access (R88). -/
theorem lodgeAccess_some (hc : (s.bank b).claim = .none) (he : (s.bank b).erase = none) (hh : s.holdsSlot (.bank b) = false)
    (hw : (s.bank b).waiting.any Access.isSupplyBound = true) :
    lodgeAccess s b = some (lodge (.bank b) (s.setBank b { s.bank b with claim := .access })) :=
  if_pos (by rw [hc, he, hh, hw]; rfl)

/-- A free bank without an erase grants nothing to a supply-bound access that has just joined it (R71). -/
theorem grant_supply (he : (s.bank b).erase = none) (hw : (s.bank b).waiting = [.media m 0])
    (hm : (Access.media m 0).isSupplyBound = true) : grant s b = none := by
  refine grant_eq_none.mpr (Or.inr (Or.inr ⟨by rw [he]; rfl, ?_⟩))
  rw [hw]
  cases m with
  | verifyRead _ _ _ => cases hm
  | program q => exact ⟨rfl, Or.inr ⟨rfl, rfl⟩⟩
  | eraseStart n sector => exact ⟨rfl, Or.inr ⟨rfl, rfl⟩⟩

/-- A quiet bank that a supply-bound access joins lodges its claim (R71, R88). -/
theorem due_join_supply (h : s.Quiet b) (hm : (Access.media m 0).isSupplyBound = true) :
    due (join b (.media m 0) s) = some (lodge (.bank b) (claimed b m s)) := by
  have hbank := bank_join_quiet h (.media m 0)
  have hgrant : grant (join b (.media m 0) s) b = none :=
    grant_supply (by rw [hbank]; exact h.erase) (by rw [hbank]) hm
  rw [due_join_quiet h, hgrant, Option.none_or, lodgeAccess_some (by rw [hbank]; exact h.claim) (by rw [hbank]; exact h.erase)
    (s := join b (.media m 0) s) h.slot (by rw [hbank, List.any_cons, hm]; rfl), hbank, join, setBank_setBank, claimed]

/-- Once the claim is lodged, what is due is the start of its access, or the grant of a slot. -/
theorem due_claimed (h : s.Quiet b) (hm : (Access.media m 0).isSupplyBound = true) (hb : t.banks = (claimed b m s).banks)
    (hh : ∀ c, c ≠ .bank b → t.holdsSlot c = s.holdsSlot c) (ho : t.op = s.op) : due t = (start t b).or (grantSlot t) := by
  have hbank : t.bank b = { s.bank b with waiting := [.media m 0], claim := .access } := by
    rw [State.bank, hb]
    exact bank_setBank_same ..
  have hother : ∀ b', b' ≠ b → t.bank b' = s.bank b' := fun b' hne => by
    rw [State.bank, hb]
    exact bank_setBank_ne s _ hne
  have hresume : lodgeResume t b = none := lodgeResume_clear (by rw [hbank]; exact h.erase)
  have hgrant : grant t b = none := grant_supply (by rw [hbank]; exact h.erase) (by rw [hbank]) hm
  have hsuspend : beginSuspend t b = none := beginSuspend_free (by rw [hbank]; exact h.free)
  have hlodge : lodgeAccess t b = none := lodgeAccess_eq_none.mpr (by rw [hbank]; rfl)
  rw [due_of_bank b h.due hother hh ho, hresume, hgrant, hsuspend, hlodge]
  simp only [Option.or_none]

theorem start_unslotted (hh : s.holdsSlot (.bank b) = false) : start s b = none :=
  start_eq_none.mpr fun h => ne_true_of_eq_false hh h.2.1

/-- No slot is free: the claim waits, and nothing more is due (R88, R89). -/
theorem settle_join_supply_waits (h : s.Quiet b) (hm : (Access.media m 0).isSupplyBound = true) (hf : s.slotFree = false) :
    settle (join b (.media m 0) s) = lodge (.bank b) (claimed b m s) := by
  refine settle_one (due_join_supply h hm) ?_ rfl
  rw [due_claimed (t := lodge (.bank b) (claimed b m s)) h hm rfl (fun _ _ => rfl) rfl,
    start_unslotted (s := lodge (.bank b) (claimed b m s)) h.slot,
    grantSlot_eq_none (s := lodge (.bank b) (claimed b m s)).mpr (Or.inr hf)]
  rfl

/-- A slot is free: the claim is granted, and the access starts (R76, R80, R89). -/
theorem settle_join_supply_starts (h : s.Quiet b) (hm : (Access.media m 0).isSupplyBound = true) (hf : s.slotFree = true)
    (hstart : start (giveSlot (.bank b) (claimed b m s)) b = some t) (hdue : due t = none) :
    settle (join b (.media m 0) s) = t := by
  have hlodged : due (lodge (.bank b) (claimed b m s)) = some (giveSlot (.bank b) (claimed b m s)) := by
    rw [due_claimed (t := lodge (.bank b) (claimed b m s)) h hm rfl (fun _ _ => rfl) rfl,
      start_unslotted (s := lodge (.bank b) (claimed b m s)) h.slot,
      grantSlot_single (s := claimed b m s) (.bank b) hf (claims_of_due (s := s) h.due hf)]
    rfl
  have hgiven : due (giveSlot (.bank b) (claimed b m s)) = some t := by
    rw [due_claimed (t := giveSlot (.bank b) (claimed b m s)) h hm rfl (fun c hc => holdsSlot_giveSlot_ne (s := claimed b m s) hc hf) rfl, hstart]
    rfl
  rw [settle, show settleLimit = 997 + 1 + 1 + 1 from rfl, settleN_some (due_join_supply h hm), settleN_some hlodged,
    settleN_some hgiven, settleN_none hdue]

/-! ## The start of a supply-bound access -/

/-- The job list while the job that issued a program sequence, if one did, is active (R96). -/
def issuerJobs (i : Issuer) (s : State) : List Job := match i with
  | .publishedMark n => s.jobs.map fun j : Job => if j.number = n then { j with active := true } else j
  | _ => s.jobs

theorem activate_issuer (i : Issuer) (s : State) : activate i.job s = { s with jobs := issuerJobs i s } := by
  cases i <;> rfl

/-- What a bank that holds a slot for its access starts (R71). -/
theorem start_access (hf : (s.bank b).isFree = true) (hc : (s.bank b).claim = .access) (he : (s.bank b).erase = none)
    (hh : s.holdsSlot (.bank b) = true) :
    (∀ q, (s.bank b).waiting.find? Access.isSupplyBound = some (.media (.program q) credit) →
      start s b = some (beginProgram b q s))
    ∧ ∀ n sector, (s.bank b).waiting.find? Access.isSupplyBound = some (.media (.eraseStart n sector) credit) →
      start s b = some (beginErase b n sector s) := by
  refine ⟨fun q hw => ?_, fun n sector hw => ?_⟩ <;>
    (rw [start, hf, hh, hc, he, hw]; rfl)

/-- The bank of an access that did not begin, and of which the claim and the slot are given up (R75, R79, R80). -/
theorem quitBank_setBank (he : (s.bank b).erase = none) (w : List Access) (jobs : List Job) :
    quitBank b { s.setBank b { s.bank b with waiting := w } with jobs := jobs } = releaseSlot (.bank b)
      ({ s with jobs := jobs }.setBank b { activity := .idle, openLine := none, erase := none, waiting := w, claim := .none }) := by
  have hstate : ({ s.setBank b { s.bank b with waiting := w } with jobs := jobs } : State)
      = { s with jobs := jobs }.setBank b { s.bank b with waiting := w } := rfl
  rw [hstate, quitBank, setBank_setBank, bank_setBank_same, ← he]

theorem beginProgram_protected (he : (s.bank b).erase = none) (hp : s.isProtected q.sector = true) :
    beginProgram b q s = programEnded q.issuer .failed (releaseSlot (.bank b) ({ s with jobs := issuerJobs q.issuer s }.setBank b
      { activity := .idle, openLine := none, erase := none, waiting := (s.bank b).waiting.eraseP Access.isSupplyBound,
        claim := .none })) := by
  rw [beginProgram, if_pos hp, activate_issuer, quitBank_setBank he]
  rfl

theorem beginProgram_open (hc : (s.bank b).claim = .access) (he : (s.bank b).erase = none) (hp : s.isProtected q.sector = false) :
    beginProgram b q s = { s with jobs := issuerJobs q.issuer s }.setBank b
      { activity := .programming q .blankCheck, openLine := none, erase := none,
        waiting := (s.bank b).waiting.eraseP Access.isSupplyBound, claim := .access } := by
  rw [beginProgram, if_neg (ne_true_of_eq_false hp), activate_issuer, ← he, ← hc]
  rfl

/-- An erase start finds its sector protected (R75, R80). -/
theorem beginErase_protected (he : (s.bank b).erase = none) (hp : s.isProtected sector = true) :
    beginErase b n sector s = eraseDone n sector .protection (releaseSlot (.bank b)
      ((activateJob n s).setBank b
        { activity := .idle, openLine := none, erase := none, waiting := (s.bank b).waiting.eraseP Access.isSupplyBound,
          claim := .none })) := by
  rw [beginErase, if_pos hp]
  exact congrArg _ (quitBank_setBank he _ _)

/-- The bank at which an erase has begun, with the accesses that wait (R80, R81). -/
def erasing (n sector : Nat) (w : List Access) : Bank :=
  { activity := .erasing, openLine := none, waiting := w, claim := .none
    erase := some { sector, job := n, suspended := false, runningTime := 0, lockout := 0, served := false } }

theorem beginErase_open (hp : s.isProtected sector = false) : beginErase b n sector s = withdrawRaw b sector
    ((activateJob n s).setBank b (erasing n sector ((s.bank b).waiting.eraseP Access.isSupplyBound))) := by
  rw [beginErase, if_neg (ne_true_of_eq_false hp)]
  rfl

/-- The accesses that wait behind a supply-bound access hold the same READ_RAWs. -/
theorem any_raw_eraseP (l : List Access) :
    (l.eraseP Access.isSupplyBound).any (isRawOf sector) = l.any (isRawOf sector) := by
  have hneg : ∀ x, isRawOf sector x = true → ¬ Access.isSupplyBound x = true := by
    rintro (x | ⟨x, c⟩) hx
    · exact Bool.false_ne_true
    · cases hx
  rw [Bool.eq_iff_iff, List.any_eq_true, List.any_eq_true]
  exact exists_congr fun x => and_congr_left fun hx => List.mem_eraseP_of_neg (hneg x hx)

/-- A READ_RAW of the sector waits: it is withdrawn and answered (R59, R63). -/
theorem withdrawRaw_waiting {w : List Access} (hr : w.any (isRawOf sector) = true) :
    withdrawRaw b sector (s.setBank b (erasing n sector w)) = respond .mgmt .busySector []
      { s.setBank b (erasing n sector (w.filter fun a => !isRawOf sector a)) with mgmt := { s.mgmt with readMark := false } } := by
  unfold withdrawRaw
  dsimp only
  rw [bank_setBank_same]
  exact (if_pos hr).trans (by rw [setBank_setBank]; rfl)

theorem withdrawRaw_none {w : List Access} (hr : w.any (isRawOf sector) = false) :
    withdrawRaw b sector (s.setBank b (erasing n sector w)) = s.setBank b (erasing n sector (w.filter fun a => !isRawOf sector a)) := by
  have hall : w.filter (fun a => !isRawOf sector a) = w :=
    List.filter_eq_self.mpr fun x hx => by rw [Bool.eq_false_of_not_eq_true (List.any_eq_false.mp hr x hx)]; rfl
  unfold withdrawRaw
  dsimp only
  rw [bank_setBank_same, hall]
  exact if_neg (ne_true_of_eq_false hr)

/-- The part when the access that a bank's claim was for has begun with its slot (R76, R80, R89). -/
def begun (b : BankId) (jobs : List Job) (k : Bank) (s : State) : State :=
  giveSlot (.bank b) ({ s with jobs := jobs }.setBank b k)

@[simp] theorem bank_begun (b : BankId) (jobs : List Job) (k : Bank) (s : State) : (begun b jobs k s).bank b = k :=
  bank_setBank_same ..

theorem bank_begun_ne {b' : BankId} (h : b' ≠ b) (jobs : List Job) (k : Bank) (s : State) :
    (begun b jobs k s).bank b' = s.bank b' :=
  bank_setBank_ne { s with jobs := jobs } k h

theorem holdsSlot_begun_ne {c : Claimant} (h : c ≠ .bank b) (hf : s.slotFree = true) (jobs : List Job) (k : Bank) :
    (begun b jobs k s).holdsSlot c = s.holdsSlot c :=
  holdsSlot_giveSlot_ne (s := ({ s with jobs := jobs } : State).setBank b k) h hf

/-- Nothing is due once the access that a quiet bank's claim was for has begun (R71, R83, R88). -/
theorem due_begun (h : s.Quiet b) (hf : s.slotFree = true) (jobs : List Job) (hk : k.isFree = false)
    (hsuspend : beginSuspend (begun b jobs k s) b = none) (hlodge : lodgeAccess (begun b jobs k s) b = none) :
    due (begun b jobs k s) = none := by
  have hfree : ((begun b jobs k s).bank b).isFree = false := by rw [bank_begun, hk]
  have hslot : grantSlot (begun b jobs k s) = none := grantSlot_eq_none.mpr (Or.inl (claims_of_due (s := s) h.due hf))
  rw [due_of_bank b h.due (fun _ hne => bank_begun_ne hne jobs k s) (fun _ hc => holdsSlot_begun_ne hc hf jobs k) rfl,
    start_busy hfree, hslot, lodgeResume_busy hfree, grant_eq_none.mpr (Or.inl hfree), hsuspend, hlodge]
  rfl

theorem bank_claimed (b : BankId) (m : MediaAccess) (s : State) :
    (giveSlot (.bank b) (claimed b m s)).bank b = { s.bank b with waiting := [.media m 0], claim := .access } :=
  bank_setBank_same ..

/-- The claim of a quiet bank has its slot: its program sequence starts (R71, R76). -/
theorem start_claimed_program (h : s.Quiet b) : start (giveSlot (.bank b) (claimed b (.program q) s)) b
    = some (beginProgram b q (giveSlot (.bank b) (claimed b (.program q) s))) :=
  (start_access (credit := 0) (by rw [bank_claimed]; exact h.free) (by rw [bank_claimed]) (by rw [bank_claimed]; exact h.erase)
    (holdsSlot_giveSlot_same _)).1 q (by rw [bank_claimed]; rfl)

/-- The claim of a quiet bank has its slot: its erase starts (R71, R80). -/
theorem start_claimed_erase (h : s.Quiet b) : start (giveSlot (.bank b) (claimed b (.eraseStart n sector) s)) b
    = some (beginErase b n sector (giveSlot (.bank b) (claimed b (.eraseStart n sector) s))) :=
  (start_access (credit := 0) (by rw [bank_claimed]; exact h.free) (by rw [bank_claimed]) (by rw [bank_claimed]; exact h.erase)
    (holdsSlot_giveSlot_same _)).2 n sector (by rw [bank_claimed]; rfl)

/-- A program sequence that joins a quiet bank begins (R75, R76). -/
theorem settle_join_program (h : s.Quiet b) (hf : s.slotFree = true) (hp : s.isProtected q.sector = false) :
    settle (join b (.media (.program q) 0) s) = begun b (issuerJobs q.issuer s)
      { activity := .programming q .blankCheck, openLine := none, erase := none, waiting := [], claim := .access } s := by
  have hbegin : beginProgram b q (giveSlot (.bank b) (claimed b (.program q) s)) = begun b (issuerJobs q.issuer s)
      { activity := .programming q .blankCheck, openLine := none, erase := none, waiting := [], claim := .access } s := by
    have hopen : (giveSlot (.bank b) (claimed b (.program q) s)).isProtected q.sector = false := hp
    rw [beginProgram_open (by rw [bank_claimed]) (by rw [bank_claimed]; exact h.erase) hopen, bank_claimed]
    exact congrArg (giveSlot (.bank b)) (setBank_setBank { s with jobs := issuerJobs q.issuer s } ..)
  refine settle_join_supply_starts h rfl hf ((start_claimed_program h).trans (congrArg some hbegin)) (due_begun h hf _ rfl ?_ ?_)
  · exact beginSuspend_of_ne (by rw [bank_begun]; exact Activity.noConfusion)
  · exact lodgeAccess_eq_none.mpr (by rw [bank_begun]; rfl)

/-- An erase start that joins a quiet bank begins (R80, R81). -/
theorem settle_join_erase (h : s.Quiet b) (hf : s.slotFree = true) (hp : s.isProtected sector = false) :
    settle (join b (.media (.eraseStart n sector) 0) s) = begun b (activateJob n s).jobs (erasing n sector []) s := by
  have hbegin : beginErase b n sector (giveSlot (.bank b) (claimed b (.eraseStart n sector) s))
      = begun b (activateJob n s).jobs (erasing n sector []) s := by
    have hopen : (giveSlot (.bank b) (claimed b (.eraseStart n sector) s)).isProtected sector = false := hp
    rw [beginErase_open hopen, bank_claimed, withdrawRaw_none rfl]
    exact congrArg (giveSlot (.bank b)) (setBank_setBank (activateJob n s) ..)
  refine settle_join_supply_starts h rfl hf ((start_claimed_erase h).trans (congrArg some hbegin)) (due_begun h hf _ rfl ?_ ?_)
  · exact beginSuspend_eq_none.mpr fun e _ _ => by rw [bank_begun]; exact Bool.and_false _
  · exact lodgeAccess_eq_none.mpr (by simp [bank_begun, erasing])

end

/-! ## The statements -/

/-- Settles O22: a quiet bank serves the read at once; at any other it waits, and makes an erase suspend. -/
theorem readAccessJoinsItsBank : Obligations.ReadAccessJoinsItsBank := by
  refine ⟨fun b a s h ha => ⟨fun hline => ?_, fun hline => ?_⟩, fun b a s hs hf => ⟨fun e hact he hl => ?_,
    fun e hact he hl => ?_, fun hact => ?_⟩⟩
  · rw [settle_join_read h, if_pos hline, Grants.completeRead_of_live ha] <;> rfl
  · rw [settle_join_read h, if_neg hline]
  · exact settle_join_suspends hs hact he hl a
  · exact settle_join_waits hs hf a (beginSuspend_locked (by rw [join, bank_setBank_same]; exact he) hl)
  · exact settle_join_waits hs hf a (beginSuspend_of_ne (by rw [join, bank_setBank_same]; exact hact))

/-- Settles O31: the claim lodged at a quiet bank, its slot, and what the access then starts. -/
theorem supplyBoundAccessJoinsAQuietBank : Obligations.SupplyBoundAccessJoinsAQuietBank := by
  refine ⟨?_, ?_, fun sector m s h hf hm => settle_join_supply_waits h hm hf, fun b s hf hc he hh => ⟨fun q credit hw => ?_,
    fun n sector credit hw => ?_⟩, fun b s t h => ?_⟩
  · rintro b q s h hf rfl hp
    exact settle_join_program h hf hp
  · rintro b n sector s h hf rfl hp
    exact settle_join_erase h hf hp
  · rw [(start_access hf hc he hh).1 q hw]
    exact ⟨fun hp => congrArg some (beginProgram_protected he hp), fun hp => congrArg some (beginProgram_open hc he hp)⟩
  · intro raw begun
    have hraw : isRawOf sector = raw := funext fun a => by cases a <;> rfl
    have hbegun : begun = (activateJob n s).setBank b
        (erasing n sector (((s.bank b).waiting.eraseP Access.isSupplyBound).filter fun a => !isRawOf sector a)) := by
      rw [hraw]
      rfl
    rw [(start_access hf hc he hh).2 n sector hw, ← hraw, ← any_raw_eraseP, hbegun]
    refine ⟨fun hp => congrArg some (beginErase_protected he hp), fun hp hr => ?_, fun hp hr => ?_⟩
    · rw [beginErase_open hp, withdrawRaw_none hr]
    · rw [beginErase_open hp, withdrawRaw_waiting hr] <;> rfl
  · obtain ⟨hmem, hrow, hboot⟩ := Steps.SameFlash.ofMoves (Moves.ofStart (.refl s) h)
    exact ⟨hmem, hrow, hboot⟩

end Sys2Proof.Proofs.Joins

/-! # The scanner (R66, R144, R145, R153 to R156): the statement O42 -/

namespace Sys2Proof.Proofs.Scanner

open Sys2Proof Sys2Proof.Machine Sys2Proof.Proofs.Rules

section
variable {s : State} {im : Image} {n : Nat}

theorem settingsReadDone_some (hstage : s.scanStage = .readingSettings) (hr : s.resetHeld = false) :
    settingsReadDone s = some (settingsRead s) := if_pos ⟨hstage, hr⟩

theorem scanSenseCompletes_some (hstage : s.scanStage = .scanning) (hr : s.resetHeld = false)
    (ha : (s.bank (bankOf s.scanPosition)).activity = .sensing (.scan s.scanPosition)) :
    scanSenseCompletes s = some (scanSenseDone s.scanPosition s) := if_pos ⟨hstage, hr, ha⟩

/-- The line that is to hold the header of a sector's entry (R153). -/
theorem headerLine_eq (s : State) (n : Nat) : lineBytesAt s n 0 = Memory.readN s.mem (n * 65536) 256 := by
  rw [Grants.lineBytesAt_eq, Nat.zero_mul, Nat.add_zero]

/-- The scanner judges a line that holds no valid header (R153, R154). -/
theorem judge_none (h : headerImage n (Memory.readN s.mem (n * 65536) 256) = none) :
    judge n s = { s with scanPosition := n + 1 } := by
  rw [judge, headerLine_eq, h]

/-- The image a scan gives an entry: a duplicate is BAD and has no name (R155, R156). -/
theorem scannedImage_eq (h : headerImage n line = some im) (s : State) : scannedImage s im =
    if (namedEntries s (im.name.getD 0)).any fun e => e.2.generation == im.generation
    then { im with state := .bad .duplicate, name := none } else im := by
  obtain ⟨-, rfl⟩ := Encodings.headerImage_eq_some h
  rfl

theorem extent_scannedImage (s : State) (im : Image) :
    (scannedImage s im).first = im.first ∧ (scannedImage s im).count = im.count := by
  unfold scannedImage
  split <;> exact ⟨rfl, rfl⟩

/-- The scanner judges a line that holds a valid header (R155, R156). -/
theorem judge_some (h : headerImage n (Memory.readN s.mem (n * 65536) 256) = some im) :
    judge n s = { s with
      dir := Table.put none s.dir s.nextIndex (some
        (if (namedEntries s (im.name.getD 0)).any fun e => e.2.generation == im.generation
        then { im with state := .bad .duplicate, name := none } else im))
      sectors := Table.update {} (fun r => { r with owner := some s.nextIndex }) s.sectors im.first im.count
      nextIndex := s.nextIndex + 1, scanPosition := n + im.count } := by
  obtain ⟨hfirst, hcount⟩ := extent_scannedImage s im
  rw [judge, headerLine_eq, h]
  dsimp only
  rw [createEntry, hfirst, hcount, scannedImage_eq h]
  rfl

end

/-! ## The statements -/

/-- Settles O42: the settings read, and the two ways the scanner judges a line. -/
theorem scannerReadsAndJudges : Obligations.ScannerReadsAndJudges := by
  refine ⟨fun s hstage hr => ?_, fun s hstage hr ha => ⟨fun h => ?_, fun im h => ?_⟩⟩
  · exact congrArg (fun o => Host.Outcome.next (Option.getD o s)) (settingsReadDone_some hstage hr)
  all_goals
    refine (congrArg (fun o => Host.Outcome.next (Option.getD o s)) (scanSenseCompletes_some hstage hr ha)).trans
      (congrArg (fun t => Host.Outcome.next (scanOn t)) ?_)
  · exact judge_none h
  · exact judge_some h

end Sys2Proof.Proofs.Scanner

/-! # The end of the scan (R149, R157, R160): the statement O43 -/

namespace Sys2Proof.Proofs.ScanEnd

open Sys2Proof Sys2Proof.Machine Sys2Proof.Proofs.Rules

section
variable {s t : State} {c d : ClientId} {i : Nat} {name : Word32}

/-! ## The directory without its binding counts -/

/-- An image without its binding count. -/
def unbound (im : Image) : Image := { im with bindings := 0 }

/-- The directory without its binding counts. -/
def plainDir (s : State) : List (Nat × Option Image) := Table.map none (Option.map unbound) s.dir

/-- An entry found, without its binding count. -/
def plain (e : Nat × Image) : Nat × Image := (e.1, unbound e.2)

theorem namedEntries_plain (s : State) (name : Word32) :
    namedEntries { s with dir := plainDir s } name = (namedEntries s name).map plain := by
  unfold namedEntries plainDir
  dsimp only
  induction s.dir with
  | nil => rfl
  | cons e l ih =>
    obtain ⟨k, o⟩ := e
    cases o with
    | none => exact ih
    | some im =>
      rw [Table.map, if_neg (by simp), List.filterMap_cons, List.filterMap_cons, ih]
      by_cases h : im.name = some name
      · simp [h, unbound, plain]
      · simp [h, unbound]

theorem foldl_newerOf_plain (l : List (Nat × Image)) (o : Option (Nat × Image)) :
    (l.map plain).foldl newerOf (o.map plain) = (l.foldl newerOf o).map plain := by
  induction l generalizing o with
  | nil => rfl
  | cons e l ih =>
    have hstep : newerOf (o.map plain) (plain e) = (newerOf o e).map plain := by
      cases o with
      | none => rfl
      | some b => exact (apply_ite (Option.map plain) (b.2.generation < e.2.generation) (some e) (some b)).symm
    rw [List.map_cons, List.foldl_cons, List.foldl_cons, hstep, ih]

/-- Newest resolution does not look at the binding counts (R17). -/
theorem newest_plain (s : State) (name : Word32) :
    newest { s with dir := plainDir s } name = (newest s name).map plain := by
  rw [newest, namedEntries_plain, List.filter_map]
  exact foldl_newerOf_plain _ none

theorem newest_of_plainDir (h : plainDir t = plainDir s) (name : Word32) :
    (newest t name).map plain = (newest s name).map plain := by
  rw [← newest_plain, ← newest_plain]
  exact Resolution.newest_congr h name

/-- A binding more leaves the directory as it is, but for the counts (R22). -/
theorem plainDir_raiseBindings (hw : Table.wf none s.dir = true) (i : Nat) : plainDir (raiseBindings i s) = plainDir s := by
  have hw' : Table.wf none (raiseBindings i s).dir = true := wf_dir_updImage hw i _
  refine Table.ext (Table.wf_map _ hw') (Table.wf_map _ hw) fun a => ?_
  rw [plainDir, plainDir, Table.get_map _ rfl hw', Table.get_map _ rfl hw]
  have himage := image_updImage hw i a fun im => { im with bindings := im.bindings + 1 }
  refine (congrArg (Option.map unbound) himage).trans ?_
  split
  · rw [Option.map_map]
    rfl
  · rfl

/-! ## What a port is bound to -/

/-- The entry boot binding finds for a client port, if any (R149). -/
def bootFound (c : ClientId) (s : State) : Option (Nat × Image) :=
  match (s.client c).bootCopy with
  | .valid primary fallback level => (bootCandidate s primary level).or (bootCandidate s fallback level)
  | _ => none

/-- The record boot binding gives aperture 0 of a client port, if any (R34, R149). -/
def bootRecord (c : ClientId) (s : State) : Option Aperture := (bootFound c s).map fun e => boundRecord e true

theorem bootCandidate_plain (s : State) (name : Word32) (level : Nat) : (bootCandidate s name level).map plain
    = ((newest s name).map plain).filter fun e => decide (level ≤ e.2.level) := by
  rw [bootCandidate, Option.filter_map]
  rfl

/-- Boot binding of a port depends on its boot entry and on the directory without the binding counts. -/
theorem bootRecord_congr (hd : plainDir t = plainDir s) (hcopy : (t.client c).bootCopy = (s.client c).bootCopy) :
    bootRecord c t = bootRecord c s := by
  have hplain : ∀ v, bootRecord c v = ((bootFound c v).map plain).map fun e => boundRecord e true := fun v => by
    rw [Option.map_map]
    rfl
  have hcand : ∀ name level, (bootCandidate t name level).map plain = (bootCandidate s name level).map plain := fun name level => by
    rw [bootCandidate_plain, bootCandidate_plain, newest_of_plainDir hd]
  rw [hplain, hplain, bootFound, bootFound, hcopy]
  cases (s.client c).bootCopy with
  | valid primary fallback level => simp only [Option.map_or, hcand]
  | blank => rfl
  | invalid => rfl

/-- A client unit that has been boot-bound and is READY, with the record its aperture 0 was given (R149, R157). -/
def booted (u : ClientUnit) (r : Option Aperture) : ClientUnit :=
  { u with
    level := u.bootCopy.level
    apertures := r.elim u.apertures fun r => Table.put none u.apertures 0 (some r)
    port := { u.port with
      state := .ready
      causes := if u.bootCopy = .blank ∨ r.isSome then u.port.causes else { u.port.causes with bootMissing := true } } }

/-- The count of the entry a port was bound to rises (R22). -/
def counted (r : Option Aperture) (s : State) : State := r.elim s fun r => raiseBindings r.entry s

theorem setClient_raiseBindings (i : Nat) (u : ClientUnit) (s : State) :
    (raiseBindings i s).setClient c u = raiseBindings i (s.setClient c u) := by
  have himage : (s.setClient c u).image i = s.image i := rfl
  rw [raiseBindings, raiseBindings, State.updImage, State.updImage, himage]
  cases s.image i <;> rfl

theorem client_raiseBindings (i : Nat) (s : State) : (raiseBindings i s).client c = s.client c := by
  rw [State.client, raiseBindings, updImage_clients]
  rfl

theorem setPort_client (c : ClientId) (p : PortUnit) (s : State) :
    s.setPort (.client c) p = s.setClient c { s.client c with port := p } := rfl

theorem booted_blank {u : ClientUnit} (h : u.bootCopy = .blank) :
    booted u none = { u with level := 3, port := { u.port with state := .ready } } := by
  obtain ⟨port, line, level, apertures, bootCopy⟩ := u
  subst h
  rfl

theorem booted_missing {u : ClientUnit} {level : Nat} (h : u.bootCopy ≠ .blank) (hl : u.bootCopy.level = level) : booted u none =
    { u with level := level, port := { u.port with state := .ready, causes := u.port.causes.put .bootMissing true } } := by
  rw [booted, if_neg (by simp [h]), hl]
  rfl

theorem booted_bound {u : ClientUnit} {level : Nat} (hl : u.bootCopy.level = level) (r : Aperture) : booted u (some r) =
    { u with level := level, apertures := Table.put none u.apertures 0 (some r), port := { u.port with state := .ready } } := by
  rw [booted, if_pos (Or.inr Option.isSome_some), hl]
  rfl

/-- The port whose boot binding finds no entry, where its boot entry is not blank (R149). -/
theorem readyClient_missing {level : Nat} (hbind : bootBind c s = raise (.client c) .bootMissing (setLevel c level s))
    (h : (s.client c).bootCopy ≠ .blank) (hl : (s.client c).bootCopy.level = level) :
    readyClient c s = s.setClient c (booted (s.client c) none) := by
  rw [readyClient, hbind, booted_missing h hl]
  simp only [setPort_client, raise, setLevel, setClient_setClient, client_setClient_same, State.port]

/-- A client port after its boot binding, READY (R149, R157). -/
theorem readyClient_eq (c : ClientId) (s : State) :
    readyClient c s = counted (bootRecord c s) (s.setClient c (booted (s.client c) (bootRecord c s))) := by
  cases h : (s.client c).bootCopy with
  | blank =>
    have hrec : bootRecord c s = none := by rw [bootRecord, bootFound, h]; rfl
    rw [hrec, booted_blank h, readyClient, Pins.bootBind_blank h]
    simp only [setPort_client, setLevel, setClient_setClient, client_setClient_same, counted, Option.elim_none]
  | invalid =>
    have hrec : bootRecord c s = none := by rw [bootRecord, bootFound, h]; rfl
    rw [hrec, readyClient_missing (Pins.bootBind_invalid h) (by rw [h]; exact BootCopy.noConfusion) (by rw [h]; rfl)]
    rfl
  | valid primary fallback level =>
    have hrec : bootRecord c s = (bootFound c s).map fun e => boundRecord e true := rfl
    have hfound : bootFound c s = (bootCandidate s primary level).or (bootCandidate s fallback level) := by rw [bootFound, h]
    have hbind := Pins.bootBind_valid h
    have hlevel : ∀ name, bootCandidate (setLevel c level s) name level = bootCandidate s name level := fun _ => rfl
    rw [hlevel, hlevel, ← hfound] at hbind
    rw [hrec]
    cases hf : bootFound c s with
    | none =>
      rw [hf] at hbind
      exact readyClient_missing hbind (by rw [h]; exact BootCopy.noConfusion) (by rw [h]; rfl)
    | some e =>
      rw [hf] at hbind
      rw [Option.map_some, booted_bound (level := level) (by rw [h]; rfl), readyClient, hbind]
      simp only [Option.elim_some, bindAperture, setPort_client, client_raiseBindings, setClient_raiseBindings, setAperture, setLevel,
        setClient_setClient, client_setClient_same, counted]
      rfl

/-! ## A port at the end of the scan -/

theorem startClient_starting (h : (s.client c).port.state = .starting) : startClient s c =
    counted (bootRecord c s) (s.setClient c (booted (s.client c) (bootRecord c s))) :=
  (if_pos h).trans (readyClient_eq c s)

theorem startClient_other (h : (s.client c).port.state ≠ .starting) : startClient s c = s := if_neg h

/-- What a rise of a binding count leaves as it is. -/
theorem counted_eq (r : Option Aperture) (s : State) : ∃ dir, counted r s = { s with dir := dir } := by
  cases r with
  | none => exact ⟨s.dir, rfl⟩
  | some r =>
    unfold counted Option.elim raiseBindings State.updImage
    dsimp only
    split
    · exact ⟨_, rfl⟩
    · exact ⟨s.dir, rfl⟩

/-- A port's start changes its client unit and the directory alone (R157). -/
theorem startClient_frame (s : State) (c : ClientId) :
    ∃ u dir, startClient s c = { s.setClient c u with dir := dir } := by
  by_cases h : (s.client c).port.state = .starting
  · obtain ⟨dir, hdir⟩ := counted_eq (bootRecord c s) (s.setClient c (booted (s.client c) (bootRecord c s)))
    exact ⟨_, dir, (startClient_starting h).trans hdir⟩
  · exact ⟨s.client c, s.dir, by rw [startClient_other h, setClient_client]⟩

theorem client_startClient_ne (h : d ≠ c) : (startClient s c).client d = s.client d := by
  obtain ⟨u, dir, heq⟩ := startClient_frame s c
  rw [heq]
  exact client_setClient_ne s u h

theorem client_startClient_same (h : (s.client c).port.state = .starting) :
    (startClient s c).client c = booted (s.client c) (bootRecord c s) := by
  obtain ⟨dir, hdir⟩ := counted_eq (bootRecord c s) (s.setClient c (booted (s.client c) (bootRecord c s)))
  rw [startClient_starting h, hdir]
  exact client_setClient_same ..

theorem wf_dir_startClient (hw : Table.wf none s.dir = true) (c : ClientId) : Table.wf none (startClient s c).dir = true := by
  by_cases h : (s.client c).port.state = .starting
  · rw [startClient_starting h]
    cases bootRecord c s with
    | none => exact hw
    | some r => exact wf_dir_updImage (s := s.setClient c _) hw r.entry _
  · rwa [startClient_other h]

theorem plainDir_startClient (hw : Table.wf none s.dir = true) (c : ClientId) : plainDir (startClient s c) = plainDir s := by
  by_cases h : (s.client c).port.state = .starting
  · rw [startClient_starting h]
    cases bootRecord c s with
    | none => rfl
    | some r => exact plainDir_raiseBindings (s := s.setClient c _) hw r.entry
  · rw [startClient_other h]

/-- What one port's start binds does not touch what another's finds (R157). -/
theorem bootRecord_startClient (hw : Table.wf none s.dir = true) (h : d ≠ c) :
    bootRecord d (startClient s c) = bootRecord d s :=
  bootRecord_congr (plainDir_startClient hw c) (congrArg ClientUnit.bootCopy (client_startClient_ne h))

/-- Whether a STARTING client port is to be bound to an entry. -/
def binds (s : State) (i : Nat) (c : ClientId) : Bool :=
  (s.client c).port.state == .starting && (bootRecord c s).map Aperture.entry == some i

/-- An image with `n` bindings more. -/
def bound (n : Nat) (im : Image) : Image := { im with bindings := im.bindings + n }

theorem map_bound_zero (o : Option Image) : o.map (bound 0) = o := Option.map_id' ..

theorem image_startClient (hw : Table.wf none s.dir = true) (c : ClientId) (i : Nat) :
    (startClient s c).image i = (s.image i).map (bound (if binds s i c then 1 else 0)) := by
  by_cases h : (s.client c).port.state = .starting
  · rw [startClient_starting h, binds, h]
    cases bootRecord c s with
    | none => exact (map_bound_zero _).symm
    | some r =>
      have himage : (counted (some r) (s.setClient c (booted (s.client c) (some r)))).image i
          = if i = r.entry then (s.image i).map (bound 1) else s.image i :=
        image_updImage (s := s.setClient c _) hw r.entry i _
      rw [himage]
      by_cases hi : i = r.entry
      · simp [hi]
      · simp [hi, Ne.symm hi, map_bound_zero]
  · rw [startClient_other h, binds, beq_false_of_ne h]
    exact (map_bound_zero _).symm

/-! ## All the ports -/

theorem foldl_startClient_frame (l : List ClientId) (s : State) :
    ∃ clients dir, l.foldl startClient s = { s with clients := clients, dir := dir } := by
  induction l generalizing s with
  | nil => exact ⟨s.clients, s.dir, rfl⟩
  | cons c l ih =>
    obtain ⟨u, dir, heq⟩ := startClient_frame s c
    rw [List.foldl_cons, heq]
    exact ih _

theorem client_foldl_not_mem {l : List ClientId} (h : c ∉ l) (s : State) : (l.foldl startClient s).client c = s.client c := by
  induction l generalizing s with
  | nil => rfl
  | cons d l ih =>
    obtain ⟨hd, hl⟩ := not_or.mp (mt List.mem_cons.mpr h)
    rw [List.foldl_cons, ih hl, client_startClient_ne hd]

theorem client_foldl_other {l : List ClientId} (h : (s.client c).port.state ≠ .starting) :
    (l.foldl startClient s).client c = s.client c := by
  induction l generalizing s with
  | nil => rfl
  | cons d l ih =>
    have hsame : (startClient s d).client c = s.client c := by
      by_cases hd : c = d
      · rw [← hd, startClient_other h]
      · exact client_startClient_ne hd
    rw [List.foldl_cons, ih (by rwa [hsame]), hsame]

/-- Every STARTING port is boot-bound; where the directory is canonical, to what it finds before any of them is bound. -/
theorem client_foldl_starting {l : List ClientId} (hl : l.Nodup) (hc : c ∈ l) (h : (s.client c).port.state = .starting) :
    ∃ r, (l.foldl startClient s).client c = booted (s.client c) r ∧ (Table.wf none s.dir = true → r = bootRecord c s) := by
  induction l generalizing s with
  | nil => cases hc
  | cons d l ih =>
    obtain ⟨hd, hl⟩ := List.nodup_cons.mp hl
    rw [List.foldl_cons]
    rcases List.mem_cons.mp hc with rfl | hc
    · exact ⟨bootRecord c s, (client_foldl_not_mem hd _).trans (client_startClient_same h), fun _ => rfl⟩
    · have hne : c ≠ d := fun e => hd (e ▸ hc)
      have hsame := client_startClient_ne (s := s) hne
      obtain ⟨r, hr, hrec⟩ := ih hl hc (by rwa [hsame])
      exact ⟨r, by rw [hr, hsame], fun hw => (hrec (wf_dir_startClient hw d)).trans (bootRecord_startClient hw hne)⟩

theorem image_foldl {l : List ClientId} (hl : l.Nodup) (hw : Table.wf none s.dir = true) (i : Nat) :
    (l.foldl startClient s).image i = (s.image i).map (bound (l.filter (binds s i)).length) := by
  induction l generalizing s with
  | nil => exact (map_bound_zero _).symm
  | cons d l ih =>
    obtain ⟨hd, hl⟩ := List.nodup_cons.mp hl
    have hfilter : l.filter (binds (startClient s d) i) = l.filter (binds s i) := List.filter_congr fun c hc => by
      have hne : c ≠ d := fun e => hd (e ▸ hc)
      rw [binds, binds, client_startClient_ne hne, bootRecord_startClient hw hne]
    rw [List.foldl_cons, ih hl (wf_dir_startClient hw d), image_startClient hw, Option.map_map, hfilter, List.filter_cons]
    have hsum : ∀ m n, bound n ∘ bound m = bound (n + m) := fun m n => funext fun im => by
      rw [Function.comp, bound, bound, bound, Nat.add_assoc, Nat.add_comm m]
    rw [hsum]
    cases binds s i d <;> rfl

/-! ## The end of the scan -/

/-- The management port's part in the end of the scan (R157). -/
theorem restarted_eq (s : State) : raise .mgmt .restarted (startMgmt s) = { s with mgmt := { s.mgmt with
    state := if s.mgmt.state = .starting then .ready else s.mgmt.state
    causes := { s.mgmt.causes with restarted := true } } } := by
  unfold startMgmt
  split <;> rfl

theorem scanEnds_eq (s : State) : scanEnds s = { Four.all.foldl startClient { s with scanStage := .finished } with
    mgmt := { s.mgmt with
      state := if s.mgmt.state = .starting then .ready else s.mgmt.state
      causes := { s.mgmt.causes with restarted := true } } } := by
  obtain ⟨clients, dir, heq⟩ := foldl_startClient_frame Four.all { s with scanStage := .finished }
  rw [scanEnds, heq]
  exact restarted_eq _

theorem scanEnds_frame (s : State) : ∃ clients dir, scanEnds s = { s with
    clients := clients, dir := dir, scanStage := .finished
    mgmt := { s.mgmt with
      state := if s.mgmt.state = .starting then .ready else s.mgmt.state
      causes := { s.mgmt.causes with restarted := true } } } := by
  obtain ⟨clients, dir, heq⟩ := foldl_startClient_frame Four.all { s with scanStage := .finished }
  exact ⟨clients, dir, by rw [scanEnds_eq, heq]⟩

theorem client_scanEnds (s : State) (c : ClientId) :
    (scanEnds s).client c = (Four.all.foldl startClient { s with scanStage := .finished }).client c := by
  rw [scanEnds_eq]
  generalize List.foldl startClient _ Four.all = u
  rfl

theorem client_scanEnds_starting (h : (s.client c).port.state = .starting) :
    ∃ r, (scanEnds s).client c = booted (s.client c) r ∧ (Table.wf none s.dir = true → r = bootRecord c s) := by
  rw [client_scanEnds]
  exact client_foldl_starting (s := { s with scanStage := .finished }) (by decide) (by cases c <;> decide) h

theorem client_scanEnds_other (h : (s.client c).port.state ≠ .starting) : (scanEnds s).client c = s.client c := by
  rw [client_scanEnds]
  exact client_foldl_other (s := { s with scanStage := .finished }) h

theorem image_scanEnds (hw : Table.wf none s.dir = true) (i : Nat) :
    (scanEnds s).image i = (s.image i).map (bound (Four.all.filter (binds s i)).length) := by
  have hstage : binds { s with scanStage := .finished } i = binds s i := rfl
  have himage : (scanEnds s).image i = (Four.all.foldl startClient { s with scanStage := .finished }).image i := by
    rw [scanEnds_eq]
    generalize List.foldl startClient _ Four.all = u
    rfl
  rw [himage, ← hstage]
  generalize hv : ({ s with scanStage := .finished } : State) = v
  have hdir : v.dir = s.dir := by rw [← hv]
  have hbefore : v.image i = s.image i := congrArg (fun d => Table.get none d i) hdir
  rw [image_foldl (by decide) (by rw [hdir]; exact hw), hbefore]

theorem level_eq (k : BootCopy) : k.level = match k with
    | .valid _ _ level => level
    | _ => 3 := by
  cases k <;> rfl

/-- A client unit boot-bound to what was found for it (R149, R157). -/
theorem booted_found (u : ClientUnit) (o : Option (Nat × Image)) : booted u (o.map fun e => boundRecord e true) = { u with
    level := (match u.bootCopy with
      | .valid _ _ level => level
      | _ => 3)
    apertures := (match o with
      | some e => Table.put none u.apertures 0 (some { boundRecord e false with boot := true })
      | none => u.apertures)
    port := { u.port with
      state := .ready
      causes := if u.bootCopy = .blank ∨ o.isSome then u.port.causes else { u.port.causes with bootMissing := true } } } := by
  obtain ⟨port, line, level, apertures, bootCopy⟩ := u
  cases bootCopy <;> cases o <;> rfl

end

/-! ## The statements -/

/-- Settles O43: the ports are boot-bound one after another, and none touches what the next finds but for the counts. -/
theorem scanEndOpensThePorts : Obligations.ScanEndOpensThePorts := by
  intro s t
  have ht : t = scanEnds s := rfl
  obtain ⟨clients, dir, hframe⟩ := scanEnds_frame s
  refine ⟨by rw [ht, hframe], by rw [ht, hframe], fun h => ?_, fun c h => ?_, fun c h => client_scanEnds_other h, by rw [ht, hframe],
    by rw [ht, hframe], by rw [ht, hframe], fun hw => ?_⟩
  · rw [ht, hframe]
    exact if_pos h
  · obtain ⟨r, hr, -⟩ := client_scanEnds_starting h
    exact ⟨by rw [hr]; rfl, (congrArg ClientUnit.level hr).trans (level_eq _)⟩
  · intro found
    have hrec : ∀ c, bootRecord c s = (found c).map fun e => boundRecord e true := fun c => rfl
    have hbinds : ∀ i, binds s i = fun c => (s.client c).port.state == .starting && (found c).map Prod.fst == some i :=
      fun i => funext fun c => by rw [binds, hrec, Option.map_map]; rfl
    refine ⟨fun c h => ?_, fun i => ?_⟩
    · obtain ⟨r, hr, heq⟩ := client_scanEnds_starting h
      exact (hr.trans (congrArg (booted _) (heq hw))).trans (booted_found (s.client c) (found c))
    · rw [← hbinds]
      exact image_scanEnds hw i

end Sys2Proof.Proofs.ScanEnd

/-! # The assertion of PORT_RESET at a READY port (R11, R12, R22, R44, R62, R63, R158): the statement O40 -/

namespace Sys2Proof.Proofs.PortReset

open Sys2Proof Sys2Proof.Machine Sys2Proof.Proofs.Rules

section
variable {s t u v : State} {c d : ClientId} {b : BankId} {p : Port}

/-! ## Counts that are lowered together -/

/-- An image whose counts have been lowered, and examined when one was (R12, R22). -/
def lowered (bindings reads : Nat) (im : Image) : Image :=
  if bindings + reads = 0 then im
  else retireIfIdle { im with bindings := im.bindings - bindings, reads := im.reads - reads }

theorem map_lowered_zero (o : Option Image) : o.map (lowered 0 0) = o := Option.map_id' ..

/-- A lowering after the counts were examined is examined again, and the first examination made no difference to it. -/
theorem retireIfIdle_lower (m n : Nat) (im : Image) :
    retireIfIdle { retireIfIdle im with bindings := (retireIfIdle im).bindings - m, reads := (retireIfIdle im).reads - n }
      = retireIfIdle { im with bindings := im.bindings - m, reads := im.reads - n } := by
  by_cases h : im.state = .retiring ∧ im.bindings = 0 ∧ im.reads = 0
  · obtain ⟨hs, hb, hr⟩ := h
    simp [retireIfIdle, hs, hb, hr]
  · rw [retireIfIdle.eq_def im, if_neg h]

theorem lowered_lowered (m n m' n' : Nat) (im : Image) :
    lowered m' n' (lowered m n im) = lowered (m + m') (n + n') im := by
  unfold lowered
  by_cases h : m + n = 0
  · obtain ⟨rfl, rfl⟩ : m = 0 ∧ n = 0 := by omega
    simp only [Nat.zero_add, if_true]
  · by_cases h' : m' + n' = 0
    · obtain ⟨rfl, rfl⟩ : m' = 0 ∧ n' = 0 := by omega
      simp only [Nat.add_zero, if_true]
    · rw [if_neg h, if_neg h', if_neg (by omega), retireIfIdle_lower]
      simp only [Nat.sub_sub]

theorem map_lowered (o : Option Image) (m n m' n' : Nat) :
    (o.map (lowered m n)).map (lowered m' n') = o.map (lowered (m + m') (n + n')) := by
  rw [Option.map_map]
  exact congrArg (Option.map · o) (funext (lowered_lowered m n m' n'))

/-- The directory's counts have been lowered, by amounts given at each entry, from one state to another. -/
structure Lowers (s t : State) (bindings reads : Nat → Nat) : Prop where
  wf : Table.wf none t.dir = true
  image : ∀ i, t.image i = (s.image i).map (lowered (bindings i) (reads i))

namespace Lowers

theorem refl (hw : Table.wf none s.dir = true) : Lowers s s (fun _ => 0) (fun _ => 0) :=
  ⟨hw, fun _ => (map_lowered_zero _).symm⟩

theorem trans {m n m' n' : Nat → Nat} (h : Lowers s t m n) (h' : Lowers t u m' n') :
    Lowers s u (fun i => m i + m' i) (fun i => n i + n' i) :=
  ⟨h'.wf, fun i => by rw [h'.image, h.image, map_lowered]⟩

/-- Only the directories matter. -/
theorem of_dir {m n : Nat → Nat} (h : Lowers s t m n) (hs : v.dir = s.dir) (ht : u.dir = t.dir) : Lowers v u m n := by
  refine ⟨ht ▸ h.wf, fun i => ?_⟩
  have hu : u.image i = t.image i := congrArg (fun d => Table.get none d i) ht
  have hv : v.image i = s.image i := congrArg (fun d => Table.get none d i) hs
  rw [hu, hv, h.image]

/-- The amounts may be given by other functions. -/
theorem congr {m n m' n' : Nat → Nat} (h : Lowers s t m n) (hm : ∀ i, m i = m' i) (hn : ∀ i, n i = n' i) : Lowers s t m' n' := by
  rwa [← funext hm, ← funext hn]

theorem lowerReads (hw : Table.wf none s.dir = true) (j : Nat) :
    Lowers s (lowerReads j s) (fun _ => 0) (fun i => if j = i then 1 else 0) := by
  refine ⟨wf_dir_updImage hw j _, fun i => (image_updImage hw j i _).trans ?_⟩
  by_cases h : i = j
  · rw [if_pos h, if_pos h.symm]
    rfl
  · rw [if_neg h, if_neg (Ne.symm h)]
    exact (map_lowered_zero _).symm

theorem lowerBindings (hw : Table.wf none s.dir = true) (j : Nat) :
    Lowers s (lowerBindings j s) (fun i => if j = i then 1 else 0) (fun _ => 0) := by
  refine ⟨wf_dir_updImage hw j _, fun i => (image_updImage hw j i _).trans ?_⟩
  by_cases h : i = j
  · rw [if_pos h, if_pos h.symm]
    rfl
  · rw [if_neg h, if_neg (Ne.symm h)]
    exact (map_lowered_zero _).symm

end Lowers

/-! ## The reads of a port -/

theorem updImage_frame (i : Nat) (f : Image → Image) (s : State) : ∃ dir, s.updImage i f = { s with dir := dir } := by
  unfold State.updImage
  split
  · exact ⟨_, rfl⟩
  · exact ⟨s.dir, rfl⟩

theorem lowerAll_frame (l : List Nat) (s : State) : ∃ dir, l.foldl (fun t i => lowerReads i t) s = { s with dir := dir } := by
  induction l generalizing s with
  | nil => exact ⟨s.dir, rfl⟩
  | cons i l ih =>
    obtain ⟨dir, heq⟩ := updImage_frame i (fun im => retireIfIdle { im with reads := im.reads - 1 }) s
    obtain ⟨dir', heq'⟩ := ih { s with dir := dir }
    exact ⟨dir', by rw [List.foldl_cons, lowerReads, heq, heq']⟩

theorem lowers_lowerAll (l : List Nat) (hw : Table.wf none s.dir = true) :
    Lowers s (l.foldl (fun t i => lowerReads i t) s) (fun _ => 0) fun i => l.count i := by
  induction l generalizing s with
  | nil => exact .refl hw
  | cons j l ih =>
    refine ((Lowers.lowerReads hw j).trans (ih (Lowers.lowerReads hw j).wf)).congr (fun _ => rfl) fun i => ?_
    rw [List.count_cons, Nat.add_comm]
    simp only [beq_iff_eq]

/-- What RESET does to a client's read mark at a bank: it is cleared where a read access of the port waits (R63). -/
def markAfter (c : ClientId) (k : Bank) (mark : Bool) : Bool := mark && !k.waiting.any (isReadOf (.client c))

/-- The client unit with another read mark. -/
def remarked (u : ClientUnit) (mark : Bool) : ClientUnit := { u with port := { u.port with readMark := mark } }

/-- A port's reads at a bank are dropped there, and lower the counts of their entries (R62, R63). -/
theorem dropReadsAt_frame (c : ClientId) (s : State) (b : BankId) : ∃ dir, dropReadsAt (.client c) s b =
    ({ s with dir := dir }.setBank b (dropReads (.client c) (s.bank b))).setClient c
      (remarked (s.client c) (markAfter c (s.bank b) (s.client c).port.readMark)) := by
  obtain ⟨dir, heq⟩ := lowerAll_frame (waitingEntries (.client c) (s.bank b)) (s.setBank b (dropReads (.client c) (s.bank b)))
  refine ⟨dir, ?_⟩
  unfold dropReadsAt markAfter remarked
  dsimp only
  rw [heq]
  cases (s.bank b).waiting.any (isReadOf (.client c)) with
  | true => rw [Bool.not_true, Bool.and_false]; rfl
  | false =>
    rw [Bool.not_false, Bool.and_true]
    exact (setClient_client { s.setBank b (dropReads (.client c) (s.bank b)) with dir := dir } c).symm

theorem lowers_dropReadsAt (hw : Table.wf none s.dir = true) (p : Port) (b : BankId) :
    Lowers s (dropReadsAt p s b) (fun _ => 0) fun i => (waitingEntries p (s.bank b)).count i := by
  have h := lowers_lowerAll (s := s.setBank b (dropReads p (s.bank b))) (waitingEntries p (s.bank b)) hw
  refine h.of_dir rfl ?_
  unfold dropReadsAt
  dsimp only
  split
  · cases p <;> rfl
  · rfl

/-- A bank after the port's reads are dropped at one of them. -/
theorem bank_dropReadsAt (c : ClientId) (s : State) (b b' : BankId) : (dropReadsAt (.client c) s b).bank b' =
    if b' = b then dropReads (.client c) (s.bank b) else s.bank b' := by
  obtain ⟨dir, heq⟩ := dropReadsAt_frame c s b
  rw [heq]
  exact bank_setBank s b b' _

theorem bank_dropReadsAt_ne {b' : BankId} (h : b' ≠ b) : (dropReadsAt (.client c) s b).bank b' = s.bank b' := by
  rw [bank_dropReadsAt, if_neg h]

theorem client_dropReadsAt_same (c : ClientId) (s : State) (b : BankId) : (dropReadsAt (.client c) s b).client c =
    remarked (s.client c) (markAfter c (s.bank b) (s.client c).port.readMark) := by
  obtain ⟨dir, heq⟩ := dropReadsAt_frame c s b
  rw [heq, client_setClient_same]

theorem client_dropReadsAt_ne (h : d ≠ c) (s : State) (b : BankId) : (dropReadsAt (.client c) s b).client d = s.client d := by
  obtain ⟨dir, heq⟩ := dropReadsAt_frame c s b
  rw [heq, client_setClient_ne _ _ h]
  rfl

/-! ## The reads of a port at all the banks -/

/-- The part after a client port's reads are dropped at the banks of a list. -/
def dropAll (c : ClientId) (l : List BankId) (s : State) : State := l.foldl (dropReadsAt (.client c)) s

theorem dropAll_cons (c : ClientId) (b : BankId) (l : List BankId) (s : State) :
    dropAll c (b :: l) s = dropAll c l (dropReadsAt (.client c) s b) := rfl

theorem dropAll_frame (c : ClientId) (l : List BankId) (s : State) :
    ∃ dir banks clients, dropAll c l s = { s with dir := dir, banks := banks, clients := clients } := by
  induction l generalizing s with
  | nil => exact ⟨s.dir, s.banks, s.clients, rfl⟩
  | cons b l ih =>
    obtain ⟨dir, heq⟩ := dropReadsAt_frame c s b
    rw [dropAll_cons, heq]
    exact ih _

theorem bank_dropAll {l : List BankId} (hl : l.Nodup) (s : State) (b : BankId) :
    (dropAll c l s).bank b = if b ∈ l then dropReads (.client c) (s.bank b) else s.bank b := by
  induction l generalizing s with
  | nil => rfl
  | cons b' l ih =>
    obtain ⟨hb', hl⟩ := List.nodup_cons.mp hl
    rw [dropAll_cons, ih hl, bank_dropReadsAt]
    by_cases h : b = b'
    · subst h
      rw [if_neg hb', if_pos rfl, if_pos List.mem_cons_self]
    · rw [if_neg h]
      simp only [List.mem_cons, h, false_or]

theorem client_dropAll_ne (h : d ≠ c) (l : List BankId) (s : State) : (dropAll c l s).client d = s.client d := by
  induction l generalizing s with
  | nil => rfl
  | cons b l ih => rw [dropAll_cons, ih, client_dropReadsAt_ne h]

theorem client_dropAll_same {l : List BankId} (hl : l.Nodup) (s : State) : (dropAll c l s).client c = remarked (s.client c)
    ((s.client c).port.readMark && !(l.any fun b => (s.bank b).waiting.any (isReadOf (.client c)))) := by
  induction l generalizing s with
  | nil => rw [List.any_nil, Bool.not_false, Bool.and_true]; rfl
  | cons b l ih =>
    obtain ⟨hb, hl⟩ := List.nodup_cons.mp hl
    have hlater : (l.any fun b' => ((dropReadsAt (.client c) s b).bank b').waiting.any (isReadOf (.client c)))
        = l.any fun b' => (s.bank b').waiting.any (isReadOf (.client c)) := by
      rw [Bool.eq_iff_iff, List.any_eq_true, List.any_eq_true]
      refine exists_congr fun b' => and_congr_right fun hb' => ?_
      rw [bank_dropReadsAt_ne (ne_of_mem_of_not_mem hb' hb)]
    rw [dropAll_cons, ih hl, client_dropReadsAt_same, hlater, List.any_cons, Bool.not_or, ← Bool.and_assoc]
    rfl

theorem lowers_dropAll {l : List BankId} (hl : l.Nodup) (hw : Table.wf none s.dir = true) :
    Lowers s (dropAll c l s) (fun _ => 0) fun i => (l.map fun b => (waitingEntries (.client c) (s.bank b)).count i).sum := by
  induction l generalizing s with
  | nil => exact .refl hw
  | cons b l ih =>
    obtain ⟨hb, hl⟩ := List.nodup_cons.mp hl
    have hstep := lowers_dropReadsAt hw (.client c) b
    refine (hstep.trans (ih hl hstep.wf)).congr (fun _ => rfl) fun i => ?_
    have hlater : (l.map fun b' => (waitingEntries (.client c) ((dropReadsAt (.client c) s b).bank b')).count i)
        = l.map fun b' => (waitingEntries (.client c) (s.bank b')).count i :=
      List.map_congr_left fun b' hb' => by rw [bank_dropReadsAt_ne (ne_of_mem_of_not_mem hb' hb)]
    rw [hlater, List.map_cons, List.sum_cons]

/-! ## The aperture table -/

theorem releaseAll_frame (l : List (Nat × Option Aperture)) (s : State) :
    ∃ dir, l.foldl releaseAperture s = { s with dir := dir } := by
  induction l generalizing s with
  | nil => exact ⟨s.dir, rfl⟩
  | cons e l ih =>
    have hstep : ∃ dir, releaseAperture s e = { s with dir := dir } := by
      unfold releaseAperture releaseRecord
      split
      · split
        · exact ⟨s.dir, rfl⟩
        · exact updImage_frame ..
      · exact ⟨s.dir, rfl⟩
    obtain ⟨dir, heq⟩ := hstep
    rw [List.foldl_cons, heq]
    exact ih _

theorem lowers_releaseAperture (hw : Table.wf none s.dir = true) (e : Nat × Option Aperture) :
    Lowers s (releaseAperture s e) (fun i => if boundTo i e.2 then 1 else 0) (fun _ => 0) := by
  obtain ⟨n, _ | r⟩ := e
  · exact .refl hw
  · unfold releaseAperture releaseRecord
    dsimp only
    cases hr : r.revoked with
    | true => exact (Lowers.refl hw).congr (fun i => by rw [boundTo_some, hr]; rfl) fun _ => rfl
    | false =>
      refine (Lowers.lowerBindings hw r.entry).congr (fun i => ?_) fun _ => rfl
      rw [boundTo_some, hr]
      simp

theorem lowers_releaseAll (l : List (Nat × Option Aperture)) (hw : Table.wf none s.dir = true) :
    Lowers s (l.foldl releaseAperture s) (fun i => (l.filter fun e => boundTo i e.2).length) (fun _ => 0) := by
  induction l generalizing s with
  | nil => exact .refl hw
  | cons e l ih =>
    have hstep := lowers_releaseAperture hw e
    refine (hstep.trans (ih hstep.wf)).congr (fun i => ?_) fun _ => rfl
    rw [List.filter_cons]
    cases boundTo i e.2
    · exact Nat.zero_add _
    · exact Nat.add_comm ..

theorem emptyTable_frame (c : ClientId) (s : State) :
    ∃ dir, emptyTable c s = { s.setClient c { s.client c with apertures := [] } with dir := dir } := releaseAll_frame _ _

theorem bank_emptyTable (c : ClientId) (s : State) (b : BankId) : (emptyTable c s).bank b = s.bank b := by
  obtain ⟨dir, heq⟩ := emptyTable_frame c s
  rw [heq]
  rfl

theorem client_emptyTable_ne (h : d ≠ c) (s : State) : (emptyTable c s).client d = s.client d := by
  obtain ⟨dir, heq⟩ := emptyTable_frame c s
  rw [heq]
  exact client_setClient_ne s _ h

theorem client_emptyTable_same (c : ClientId) (s : State) :
    (emptyTable c s).client c = { s.client c with apertures := [] } := by
  obtain ⟨dir, heq⟩ := emptyTable_frame c s
  rw [heq]
  exact client_setClient_same ..

theorem lowers_emptyTable (hw : Table.wf none s.dir = true) (c : ClientId) :
    Lowers s (emptyTable c s) (fun i => boundRecords i (s.client c)) (fun _ => 0) :=
  (lowers_releaseAll (s := s.setClient c { s.client c with apertures := [] }) (s.client c).apertures hw).of_dir rfl rfl

/-! ## The port -/

/-- A bank without a port's waiting reads, and with its sensing one dropped (R62). -/
theorem dropReads_eq (p : Port) (k : Bank) : dropReads p k = { k with
    waiting := k.waiting.filter fun a => match a with
      | .read r => r.port != p
      | _ => true
    activity := match k.activity with
      | .sensing (.read a) => .sensing (.read (if a.port = p then { a with dropped := true } else a))
      | x => x } := by
  have hwaiting : (fun a => !isReadOf p a) = fun a => match a with
      | .read r => r.port != p
      | _ => true := funext fun a => by cases a <;> rfl
  unfold dropReads
  rw [hwaiting]
  congr 1
  cases k.activity with
  | sensing r =>
    cases r with
    | read a => exact (apply_ite (fun a => Activity.sensing (.read a)) ..).symm
    | verify _ _ _ => rfl
    | scan _ => rfl
  | _ => rfl

/-- The state at the assertion of the line, when the port's reads and its table are gone (R44, R62, R158). -/
def cleared (c : ClientId) (s : State) : State := emptyTable c (dropAll c Four.all (setLine c true s))

/-- A client port unit is reset, and the management port told (R158). -/
def resetUnit (c : ClientId) (s : State) : State :=
  raise .mgmt .clientReset (s.setPort (.client c) (s.client c).port.resetting)

theorem resetReadyPort_eq (c : ClientId) (s : State) : resetReadyPort c (setLine c true s) = resetUnit c (cleared c s) := rfl

theorem client_resetUnit_same (c : ClientId) (s : State) :
    (resetUnit c s).client c = { s.client c with port := (s.client c).port.resetting } := client_setClient_same s c _

theorem client_resetUnit_ne (h : d ≠ c) (s : State) : (resetUnit c s).client d = s.client d := client_setClient_ne s _ h

theorem resetUnit_frame (c : ClientId) (s : State) : resetUnit c s = { s with
    clients := (resetUnit c s).clients, mgmt := { s.mgmt with causes := { s.mgmt.causes with clientReset := true } } } := rfl

theorem cleared_frame (c : ClientId) (s : State) : ∃ dir banks clients,
    cleared c s = { s with dir := dir, banks := banks, clients := clients } := by
  obtain ⟨_, banks, clients, hdrop⟩ := dropAll_frame c Four.all (setLine c true s)
  obtain ⟨dir, hempty⟩ := emptyTable_frame c (dropAll c Four.all (setLine c true s))
  rw [cleared, hempty, hdrop]
  exact ⟨dir, banks, _, rfl⟩

theorem bank_cleared (c : ClientId) (s : State) (b : BankId) : (cleared c s).bank b = dropReads (.client c) (s.bank b) := by
  rw [cleared, bank_emptyTable, bank_dropAll (by decide), if_pos (by cases b <;> decide)]
  rfl

theorem client_cleared_ne (h : d ≠ c) (s : State) : (cleared c s).client d = s.client d := by
  rw [cleared, client_emptyTable_ne h, client_dropAll_ne h, setLine, client_setClient_ne _ _ h]

theorem client_cleared_same (c : ClientId) (s : State) : (cleared c s).client c = { s.client c with
    line := true, apertures := []
    port := { (s.client c).port with readMark := (s.client c).port.readMark
      && !(Four.all.any fun b => (s.bank b).waiting.any (isReadOf (.client c))) } } := by
  rw [cleared, client_emptyTable_same, client_dropAll_same (by decide), setLine, client_setClient_same]
  rfl

theorem sum_banks (f : BankId → Nat) : (Four.all.map f).sum = f .zero + f .one + f .two + f .three := by
  simp only [Four.all, List.map_cons, List.map_nil, List.sum_cons, List.sum_nil, Nat.add_zero, Nat.add_assoc]

theorem lowers_cleared (hw : Table.wf none s.dir = true) (c : ClientId) : Lowers s (cleared c s)
    (fun i => boundRecords i (s.client c))
    (fun i => (Four.all.map fun b => (waitingEntries (.client c) (s.bank b)).count i).sum) := by
  have hdrop : Lowers s (dropAll c Four.all (setLine c true s)) _ _ :=
    (lowers_dropAll (s := setLine c true s) (by decide) hw).of_dir rfl rfl
  refine (hdrop.trans (lowers_emptyTable hdrop.wf c)).congr (fun i => ?_) fun i => Nat.add_zero _
  rw [client_dropAll_same (by decide), setLine, client_setClient_same]
  exact Nat.zero_add _

end

/-! ## The statements -/

/-- Settles O40: the port's reads are dropped at each bank, its table is emptied, and its unit is reset. -/
theorem portResetAssertedClearsAReadyPort : Obligations.PortResetAssertedClearsAReadyPort := by
  intro c s hcanon hheld hready
  obtain ⟨dir, banks, clients, hframe⟩ := cleared_frame c s
  refine ⟨resetReadyPort c (setLine c true s), ?_, ?_, fun d hd => ?_, ?_, fun b => ?_, fun i => ?_, ?_⟩
  · refine congrArg Host.Outcome.next ((Pins.assertPortReset_eq hheld).trans ?_)
    rw [hready]
  · rw [resetReadyPort_eq, client_resetUnit_same, client_cleared_same]
    rfl
  · rw [resetReadyPort_eq, client_resetUnit_ne hd, client_cleared_ne hd]
  · rw [resetReadyPort_eq, resetUnit_frame, hframe]
  · refine (bank_cleared c s b).trans (dropReads_eq ..)
  · refine ((lowers_cleared hcanon.dir c).image i).trans ?_
    rw [sum_banks]
    rfl
  · rw [resetReadyPort_eq, resetUnit_frame, hframe]
    exact ⟨rfl, rfl, rfl, rfl, rfl, rfl, rfl, rfl, rfl⟩

end Sys2Proof.Proofs.PortReset
